-- ==== Sys2Proof/Word.lean ====
section
/-! DEFINITION. The words that pass the block's ports (spec/20_memory.md R32, R34, spec/30_encoding.md R43) and the two ports
(spec/30_encoding.md R44). -/

namespace Sys2Proof

/-- One operand or response: a whole 32-bit word (R32, R34). -/
abbrev Word := BitVec 32

/-- A 32-bit word read as IEEE 754 binary32 (R8). Its arithmetic is in Machine/Binary32.lean. -/
abbrev F32 := BitVec 32

/-- The 8-bit field OP of a command (R43). -/
abbrev Opcode := BitVec 8

/-- A 40-bit command word: OP[39:32], OPERAND[31:0] (R43). -/
abbrev CommandWord := BitVec 40

/-- The path a command takes into the block (R44): port C of the control agent, port S of the audio agent (R5). -/
inductive Port where
  | control
  | sample
  deriving DecidableEq, Repr

/-- A command as the block receives it: its word and the port it arrives on (R43, R44). -/
structure Command where
  port : Port
  word : CommandWord
  deriving DecidableEq, Repr

/-- The binary32 word of 1.0 (R27). -/
def one : F32 := 0x3F800000#32

end Sys2Proof
end

