-- ==== Sys2Proof/Machine/PortRights.lean ====
section
/-! DEFINITION. Which port accepts which opcode (spec/30_encoding.md R49, spec/60_exceptions.md R82). -/

namespace Sys2Proof

/-- R49: port S accepts STEP, READ_VALUE, READ_TARGET, COMPLETE and READ_STATUS; port C every opcode of R46 except STEP. -/
def accepts (p : Port) (op : Opcode) : Bool :=
  match p with
  | .sample => op == 0x01#8 || (0x05#8).ule op && op.ule 0x08#8
  | .control => (0x02#8).ule op && op.ule 0x0B#8

/-- The port a command word is sent on where none is named (R52): S for STEP, C for every other. -/
def defaultPort (op : Opcode) : Port :=
  if op == 0x01#8 then .sample else .control

end Sys2Proof
end

