-- ==== Sys2Proof/Syntax.lean ====
section
/-! DEFINITION. The commands of the block: one constructor per mnemonic of spec/opcode_table.json (spec/30_encoding.md R46).
An operand that the block ignores (R48) is no part of a command. A command that both ports accept holds the port it came on,
since its response goes back there (R43); the others have one port (R49). -/

namespace Sys2Proof

inductive Instr where
  /-- OP 0x01, port S (R55). -/
  | step
  /-- OP 0x02, port C, an f32 target (R64). -/
  | setTarget (target : F32)
  /-- OP 0x03, port C, a u32 sample count (R65). -/
  | setDuration (count : Word)
  /-- OP 0x04, port C, an f32 value (R66). -/
  | init (value : F32)
  /-- OP 0x05, ports C and S (R68). -/
  | readValue (port : Port)
  /-- OP 0x06, ports C and S (R69). -/
  | readTarget (port : Port)
  /-- OP 0x07, ports C and S (R70). -/
  | complete (port : Port)
  /-- OP 0x08, ports C and S (R71). -/
  | readStatus (port : Port)
  /-- OP 0x09, port C (R72). -/
  | readRemaining
  /-- OP 0x0A, port C (R73). -/
  | readDuration
  /-- OP 0x0B, port C (R74). -/
  | readDelta
  /-- The decoder's verdict on every other command: OP 0x00 or 0x0C to 0xFF, or an OP that the port does not accept (R50, R54). -/
  | reserved (port : Port) (op : Opcode)
  deriving DecidableEq, Repr

end Sys2Proof
end

