-- ==== Sys2Proof/WellFormed.lean ====
section
/-! DEFINITION. The instructions that some command stands for. Every operand is a whole word (spec/30_encoding.md R47), so the one
thing to check is that RESERVED is the verdict only on what its port does not accept (R49, R50, R54). -/

namespace Sys2Proof

def Instr.wellFormed : Instr → Bool
  | .step => true
  | .setTarget _ => true
  | .setDuration _ => true
  | .init _ => true
  | .readValue _ => true
  | .readTarget _ => true
  | .complete _ => true
  | .readStatus _ => true
  | .readRemaining => true
  | .readDuration => true
  | .readDelta => true
  | .reserved p op => !accepts p op

end Sys2Proof
end

