-- ==== Sys2Proof/Decode.lean ====
section
/-! DEFINITION. From command words to instructions and back (spec/30_encoding.md R43, R46, R54). Decoding is total: what is
outside R46 and R49 decodes to RESERVED, the decoder's own verdict by name. -/

namespace Sys2Proof

/-- `cmd[39:32]` (R43). -/
def opField (w : CommandWord) : Opcode := w.extractLsb' 32 8

/-- `cmd[31:0]` (R43). -/
def operandField (w : CommandWord) : Word := w.extractLsb' 0 32

/-- The word `{OP, OPERAND}` (R43). -/
def commandWord (op : Opcode) (operand : Word) : CommandWord := op ++ operand

/-- The command named for an opcode in R46, with the operand read as R47 and R48 say. -/
def namedCommand (p : Port) (op : Opcode) (operand : Word) : Instr :=
  match op.toNat with
  | 0x01 => .step
  | 0x02 => .setTarget operand
  | 0x03 => .setDuration operand
  | 0x04 => .init operand
  | 0x05 => .readValue p
  | 0x06 => .readTarget p
  | 0x07 => .complete p
  | 0x08 => .readStatus p
  | 0x09 => .readRemaining
  | 0x0A => .readDuration
  | 0x0B => .readDelta
  | _ => .reserved p op

/-- R54. -/
def decode (c : Command) : Instr :=
  if accepts c.port (opField c.word) then namedCommand c.port (opField c.word) (operandField c.word)
  else .reserved c.port (opField c.word)

/-- The opcode of R46; of a reserved command, its own. -/
def Instr.opcode : Instr → Opcode
  | .step => 0x01#8
  | .setTarget _ => 0x02#8
  | .setDuration _ => 0x03#8
  | .init _ => 0x04#8
  | .readValue _ => 0x05#8
  | .readTarget _ => 0x06#8
  | .complete _ => 0x07#8
  | .readStatus _ => 0x08#8
  | .readRemaining => 0x09#8
  | .readDuration => 0x0A#8
  | .readDelta => 0x0B#8
  | .reserved _ op => op

/-- The operand word; zero where the operand is ignored, as an assembler writes it (R48, R52). -/
def Instr.operand : Instr → Word
  | .setTarget t => t
  | .setDuration n => n
  | .init v => v
  | .step => 0#32
  | .readValue _ => 0#32
  | .readTarget _ => 0#32
  | .complete _ => 0#32
  | .readStatus _ => 0#32
  | .readRemaining => 0#32
  | .readDuration => 0#32
  | .readDelta => 0#32
  | .reserved _ _ => 0#32

/-- The port an instruction comes on and its response goes back to (R44, R49). -/
def Instr.port : Instr → Port
  | .step => .sample
  | .setTarget _ => .control
  | .setDuration _ => .control
  | .init _ => .control
  | .readValue p => p
  | .readTarget p => p
  | .complete p => p
  | .readStatus p => p
  | .readRemaining => .control
  | .readDuration => .control
  | .readDelta => .control
  | .reserved p _ => p

/-- The command that stands for an instruction (R43, R46). -/
def encode (i : Instr) : Command where
  port := i.port
  word := commandWord i.opcode i.operand

/-- The instruction the decoder reads from the command word w, sent on the port R52 gives a line that names none. A word of more
than 40 bits is no command (R45): refused. A word given with fewer than 40 bits stands, by the host's convention, for the command
whose bits above nbits are 0, which R45 does not speak of (DESIGN CHOICE, notes/assumptions/20.md). -/
def decodeTableWord (nbits w : Nat) : Option Instr :=
  if nbits ≤ 40 ∧ w < 0x10000000000 then
    some (decode ⟨defaultPort (opField (BitVec.ofNat 40 w)), BitVec.ofNat 40 w⟩)
  else none

end Sys2Proof
end

