-- ==== Sys2Proof/Config.lean ====
section
/-! DEFINITION. The implementation parameters of spec/00_scope.md section 4, which a model takes as arguments of its
configuration, and the free values of what the spec leaves open. A configuration is plain data and stands in `State.cfg`, so that
a statement about every state is a statement about every configuration. FMT (binary32) and DUR_W (32 bits) are fixed by the
types of Word.lean. -/

namespace Sys2Proof

/-- The configuration field DeltaFn (spec/41_control_writes.md R63): the spec's default, the correctly rounded root, or the
function of some implementation, told apart by a number. -/
inductive DeltaRule where
  | correctlyRounded
  | implementation (k : Nat)
  deriving DecidableEq, Repr

/-- The parameters of spec/00_scope.md section 4. R4 constrains them: `Config.legal` (Machine/Ops.lean). -/
structure Config where
  /-- `V_MIN` (D11, OPEN). -/
  vMin : F32
  /-- `V_MAX` (D11, OPEN). -/
  vMax : F32
  /-- `RESET_VALUE` (D25, OPEN). -/
  resetValue : F32
  /-- `RESET_DURATION` (D25, OPEN). Its constraint in R4 is its width. -/
  resetDuration : Word
  /-- `FINAL_SNAP` (D7): true for this hardware. -/
  finalSnap : Bool
  /-- `DeltaFn` (D5). -/
  delta : DeltaRule
  deriving DecidableEq, Repr

/-- The spec's default for every parameter (spec/00_scope.md section 4). -/
def Config.specDefault : Config where
  vMin := 0x00800000#32
  vMax := 0x7F7FFFFF#32
  resetValue := 0x3F800000#32
  resetDuration := 0#32
  finalSnap := true
  delta := .correctlyRounded

/-- FREE VALUE: `SAME_CYCLE_ORDER` (R37, D21): whether the port-C command goes first at the n-th time two commands reach the
ports together (notes/assumptions/10.md). -/
opaque Config.controlFirst : Nat → Bool

/-- FREE VALUE: the function DeltaFn of implementation k, before it is held to P1 to P3 (R63; notes/assumptions/4.md). -/
opaque Config.implementedDelta : Nat → F32 → F32 → Word → F32

/-- FREE VALUE: what DeltaFn gives outside "v, t in [V_MIN, V_MAX]; N >= 1", where R63 says nothing (notes/assumptions/6.md). -/
opaque Config.deltaOutside : F32 → F32 → Word → F32

/-- FREE VALUE: the word of a product that is no real number and no infinity (a NaN operand, infinity times zero), where R9 says
nothing (notes/assumptions/5.md). -/
opaque Config.productOutside : F32 → F32 → F32

end Sys2Proof
end

