-- ==== Sys2Proof/Machine/Binary32.lean ====
section
/-! DEFINITION. binary32 words as numbers (spec/00_scope.md R8), rounding and multiplication (R9).

A non-negative finite word stands for `significand · 2^exponent` units of 2^-149. An exact real that is to be rounded is given by
its comparisons with dyadic numbers (a cut), so that a product and an N-th root are rounded by one function. -/

namespace Sys2Proof

/-- `f n`, with n evaluated first. It changes no value (`strict_eq`): it keeps evaluation by the kernel short. -/
@[inline] def strict {α : Type} (n : Nat) (f : Nat → α) : α :=
  match n with
  | 0 => f 0
  | m + 1 => f (m + 1)

/-! ## Fields and comparisons (R8) -/

/-- `w[30:23]`, the biased exponent. -/
def exponentField (w : F32) : BitVec 8 := w.extractLsb' 23 8

/-- `w[22:0]`, the fraction. -/
def fractionField (w : F32) : BitVec 23 := w.extractLsb' 0 23

/-- `w[31]`, the sign. -/
def signBit (w : F32) : Bool := w.msb

def isNaN (w : F32) : Bool := exponentField w == 0xFF#8 && fractionField w != 0#23

def isInfinite (w : F32) : Bool := exponentField w == 0xFF#8 && fractionField w == 0#23

def isFinite (w : F32) : Bool := exponentField w != 0xFF#8

def isZero (w : F32) : Bool := exponentField w == 0x00#8 && fractionField w == 0#23

/-- The integer significand of the word whose 31 low bits are w: with the leading 1 where the exponent field is not 0. -/
def significand (w : Nat) : Nat :=
  if w / 0x800000 = 0 then w % 0x800000 else 0x800000 + w % 0x800000

/-- The exponent that goes with `significand`, in units of 2^-149: a subnormal has the exponent of the smallest normal. -/
def scale (w : Nat) : Nat := w / 0x800000 - 1

/-- The 31 bits of a word without its sign. -/
def magnitudeBits (w : F32) : Nat := w.toNat % 0x80000000

/-- |w| in units of 2^-149. An infinity gets 2^277 units, above every finite word, so that comparing these numbers compares as
R8 says. -/
def units (w : F32) : Nat := significand (magnitudeBits w) <<< scale (magnitudeBits w)

/-- The number w stands for, in units of 2^-149; -0 and +0 are both 0. -/
def number (w : F32) : Int := if signBit w then -(units w : Int) else (units w : Int)

/-- `a < b` (R8): false where one is a NaN. -/
def F32.lt (a b : F32) : Bool := !isNaN a && !isNaN b && decide (number a < number b)

/-- `a <= b` (R8): false where one is a NaN. -/
def F32.le (a b : F32) : Bool := !isNaN a && !isNaN b && decide (number a ≤ number b)

/-- `a = b` as numbers (R8): false where one is a NaN. -/
def F32.eq (a b : F32) : Bool := !isNaN a && !isNaN b && decide (number a = number b)

/-- `max`, as R9 uses it in clampR. -/
def F32.maximum (a b : F32) : F32 := if F32.lt a b then b else a

/-- `min`, as R9 uses it in clampR. -/
def F32.minimum (a b : F32) : F32 := if F32.lt b a then b else a

/-! ## Comparing dyadic numbers -/

def compareNat (a b : Nat) : Ordering := if a < b then .lt else if a = b then .eq else .gt

/-- a against b·2^d: by the quotient of a first, so that no shift is larger than a. -/
def compareShifted (a b d : Nat) : Ordering :=
  strict (a >>> d) fun q => if q < b then .lt else if b < q then .gt else compareNat a (b <<< d)

/-- a·2^x against b·2^y. -/
def compareDyadic (a x b y : Nat) : Ordering :=
  if x ≤ y then compareShifted a b (y - x) else (compareShifted b a (x - y)).swap

/-! ## Rounding (R9) -/

/-- A non-negative exact real r: `r m e` is how r compares with m · 2^e · 2^-150 (a half of the unit 2^-149, so that the middle of
two neighbouring words is a whole number). -/
abbrev Cut := Nat → Nat → Ordering

/-- r rounds to the non-negative word w or above it: r lies above the middle of the word below w and w, or on it with w even (ties
go to even). The bound of +inf is the largest finite value itself: "An r larger than the largest finite value rounds to +inf"
(notes/assumptions/7.md). -/
def roundsUpTo (r : Cut) (w : Nat) : Bool :=
  if w = 0 then true
  else if w < 0x7F800000 then
    match strict (2 * significand (w - 1) + 1) fun m => strict (scale (w - 1)) fun e => r m e with
    | .lt => false
    | .eq => w % 2 == 0
    | .gt => true
  else if w = 0x7F800000 then r (2 * significand 0x7F7FFFFF) (scale 0x7F7FFFFF) == .gt
  else false

/-- The largest number from w on that `ok` holds of, below w + 2^bits, found bit by bit (for an `ok` that holds up to a point and
not after). -/
def searchBits (ok : Nat → Bool) : (bits w : Nat) → Nat
  | 0, w => w
  | b + 1, w => strict (w + 1 <<< b) fun u => if ok u then searchBits ok b u else searchBits ok b w

/-- `rne32` (R9) of a non-negative real: the largest word that r rounds up to. -/
def rne32 (r : Cut) : F32 := BitVec.ofNat 32 (searchBits (roundsUpTo r) 31 0)

/-- A word with its sign bit set, or as it is. Where w is `rne32` of a magnitude this settles, as the model's choice, what R9 does
not say of a negative real: it rounds to the mirror image of its magnitude, so every one below minus the largest finite value, the
half-ulp gap included, gives -inf (DESIGN CHOICE, notes/assumptions/19.md). -/
def withSign (negative : Bool) (w : F32) : F32 := if negative then w ||| 0x80000000#32 else w

/-! ## Multiplication (R9) -/

/-- The product of the magnitudes of two finite words. -/
def productCut (a b : F32) : Cut := fun m e =>
  compareDyadic (significand (magnitudeBits a) * significand (magnitudeBits b))
    (scale (magnitudeBits a) + scale (magnitudeBits b)) m (e + 148)

/-- Operands whose product is no real number and no infinity. -/
def noProduct (a b : F32) : Bool :=
  isNaN a || isNaN b || isInfinite a && isZero b || isZero a && isInfinite b

/-- `mul32` (R9), with an infinite operand as R55's corner case has it; the free value `Config.productOutside` where there is no
product. The sign is the model's choice (notes/assumptions/5.md), and so is a negative product beyond the finite values: -inf
(notes/assumptions/19.md). -/
def mul32 (a b : F32) : F32 :=
  if noProduct a b then Config.productOutside a b
  else withSign (signBit a ^^ signBit b)
    (if isInfinite a || isInfinite b then 0x7F800000#32 else rne32 (productCut a b))

/-! ## Roots, for DeltaFn (spec/41_control_writes.md R63) -/

/-- (t / v)^(1 / n) against m · 2^e · 2^-150, by n-th powers: t · 2^(150 n) against v · m^n · 2^(e n). The definition of the root;
`rootCut` computes the same (`rootCut_eq_exact`). -/
def rootCutExact (v t : F32) (n : Nat) : Cut := fun m e =>
  compareDyadic (significand (magnitudeBits t)) (scale (magnitudeBits t) + 150 * n)
    (significand (magnitudeBits v) * Nat.pow m n) (scale (magnitudeBits v) + e * n)

/-- A number between lo · 2^s and hi · 2^s. -/
structure Enclosure where
  lo : Nat
  hi : Nat
  s : Nat
  deriving DecidableEq, Repr

def enclose (lo hi s : Nat) : Enclosure :=
  strict lo fun l => strict hi fun h => strict s fun x => ⟨l, h, x⟩

/-- Gives up 64 bits of an enclosure that has more than 256. -/
def Enclosure.shrink (e : Enclosure) : Enclosure :=
  match e with
  | ⟨lo, hi, s⟩ => if hi >>> 256 = 0 then ⟨lo, hi, s⟩ else enclose (lo >>> 64) (hi >>> 64 + 1) (s + 64)

def Enclosure.square (e : Enclosure) : Enclosure :=
  match e with
  | ⟨lo, hi, s⟩ => enclose (lo * lo) (hi * hi) (2 * s)

def Enclosure.times (m : Nat) (e : Enclosure) : Enclosure :=
  match e with
  | ⟨lo, hi, s⟩ => enclose (lo * m) (hi * m) s

/-- An enclosure of m^n for n < 2^bits, by repeated squaring: exact while it has 256 bits. -/
def powerEnclosure (m : Nat) : (bits n : Nat) → Enclosure
  | 0, _ => ⟨1, 1, 0⟩
  | b + 1, n =>
    if n = 0 then ⟨1, 1, 0⟩
    else if n % 2 = 1 then
      ((powerEnclosure m b (n / 2)).square.shrink.shrink.shrink.shrink.shrink.times m).shrink
    else (powerEnclosure m b (n / 2)).square.shrink.shrink.shrink.shrink.shrink

/-- The comparison of `rootCutExact` decided by an enclosure of m^n where that is enough, since m^n itself may have 10^11 bits. -/
def rootCut (v t : F32) (n : Nat) : Cut := fun m e =>
  match powerEnclosure m 32 n with
  | ⟨lo, hi, s⟩ =>
    match compareDyadic (significand (magnitudeBits v) * hi) (s + scale (magnitudeBits v) + e * n)
        (significand (magnitudeBits t)) (scale (magnitudeBits t) + 150 * n) with
    | .lt => .gt
    | _ =>
      match compareDyadic (significand (magnitudeBits t)) (scale (magnitudeBits t) + 150 * n)
          (significand (magnitudeBits v) * lo) (s + scale (magnitudeBits v) + e * n) with
      | .lt => .lt
      | _ => rootCutExact v t n m e

/-- The default DeltaFn (R63): `rne32((t / v)^(1 / N))`, the exact real root rounded once. -/
def rootDelta (v t : F32) (n : Word) : F32 := rne32 (rootCut v t n.toNat)

end Sys2Proof
end

