-- ==== Sys2Proof/Machine/State.lean ====
section
/-! DEFINITION. The state of the block and of its ports, as plain data; the state after reset; the reasons a step can stop. -/

namespace Sys2Proof.Machine

/-- The block's whole architectural state (spec/10_state.md R12). STATUS.COMPLETE is derived (R19, R20). -/
structure Regs where
  /-- VALUE (R13). -/
  value : F32
  /-- TARGET (R14). -/
  target : F32
  /-- DELTA (R15). -/
  delta : F32
  /-- REMAINING (R16). -/
  remaining : Word
  /-- DURATION (R18). -/
  duration : Word
  /-- STATUS.DEGEN (R19). -/
  degen : Bool
  deriving DecidableEq, Repr

/-- The word RDATA that a command returns, with the port of the agent it goes back to (spec/20_memory.md R34,
spec/30_encoding.md R43). -/
structure Response where
  port : Port
  rdata : Word
  deriving DecidableEq, Repr

/-- What reaches the block from outside, one entry of the total order of spec/20_memory.md R37 and
spec/70_reset_and_hazards.md R90. -/
inductive Input where
  /-- A command on one port. -/
  | command (c : Command)
  /-- Two commands that reach port C and port S together (R37: either may go first). -/
  | together (onControl onSample : CommandWord)
  /-- Reset becomes asserted (R89, R90). -/
  | resetAssert
  /-- Reset ends (R90). -/
  | resetRelease
  deriving DecidableEq, Repr

structure State where
  /-- The six registers (R12). -/
  regs : Regs
  /-- The parameters of this hardware (spec/00_scope.md section 4); no step changes them. -/
  cfg : Config
  /-- The response to the last command; none where the last command got none (R90) and before the first. -/
  response : Option Response
  /-- What is still to reach the block, in the total order of R37. It stands for what the agents do: the block itself holds no
  position in it (R17). -/
  inputs : List Input
  /-- Reset is asserted (R90). -/
  resetLine : Bool
  /-- The model's own counter of ties, which the free value `Config.controlFirst` is read at. -/
  ties : Nat
  deriving DecidableEq, Repr

/-- R92: what reset writes to every register. -/
def Regs.afterReset (cfg : Config) : Regs where
  value := cfg.resetValue
  target := cfg.resetValue
  delta := one
  remaining := 0#32
  duration := cfg.resetDuration
  degen := false

/-- The machine right after reset, with the spec's default for every open parameter (notes/assumptions/1.md, 2.md), nothing on
its way to the ports and reset released. -/
def State.reset : State where
  regs := Regs.afterReset Config.specDefault
  cfg := Config.specDefault
  response := none
  inputs := []
  resetLine := false
  ties := 0

/-- No fault: no command traps, aborts or is rejected (spec/60_exceptions.md R80, spec/41_control_writes.md R61), so nothing
raises one. -/
inductive Fault
  deriving DecidableEq, Repr

inductive Refusal where
  /-- Raised by an arm of `exec` for an instruction that has no meaning yet. No arm raises it. Safe. -/
  | notModelled (mnemonic : String)
  /-- Raised by `step` for a configuration that breaks spec/00_scope.md R4, which "a model should refuse". No instruction raises
  it. Safe. -/
  | illegalConfiguration
  deriving DecidableEq, Repr

end Sys2Proof.Machine
end

