-- ==== Sys2Proof/Machine/Ops.lean ====
section
/-! DEFINITION. The operations the instructions share: the legal range, DeltaFn, completing a command with its response, the one
error condition, reset, and words as bytes. The block has no memory (spec/20_memory.md R31) and no register selected by number
(spec/10_state.md R17), so there is no other access path to its state than the fields of `Regs`. -/

namespace Sys2Proof

/-- spec/00_scope.md R4. -/
def Config.legal (cfg : Config) : Bool :=
  isFinite cfg.vMin && isFinite cfg.vMax && F32.lt 0#32 cfg.vMin && F32.le cfg.vMin cfg.vMax
    && F32.le cfg.vMin cfg.resetValue && F32.le cfg.resetValue cfg.vMax

/-- x is a number in [V_MIN, V_MAX] (spec/10_state.md R21). -/
def Config.inRange (cfg : Config) (x : F32) : Bool := F32.le cfg.vMin x && F32.le x cfg.vMax

/-- `clampR(x) = min(max(x, V_MIN), V_MAX)` (R9). -/
def Config.clampR (cfg : Config) (x : F32) : F32 := F32.minimum (F32.maximum x cfg.vMin) cfg.vMax

/-- P1 to P3 of spec/41_control_writes.md R63 for one result d of DeltaFn from v to t. -/
def deltaConforms (v t d : F32) : Bool :=
  !isNaN d && !F32.lt d 0#32
    && (!F32.eq t v || d == one)
    && (!F32.lt v t || F32.le one d)
    && (!F32.lt t v || F32.le d one)

/-- DeltaFn (R63): the configured function on legal arguments. An implementation's result that breaks P1 to P3 is none of a DeltaFn,
and the default stands in for it (notes/assumptions/4.md). -/
def Config.deltaFn (cfg : Config) (v t : F32) (n : Word) : F32 :=
  if cfg.inRange v && cfg.inRange t && n != 0#32 then
    match cfg.delta with
    | .correctlyRounded => rootDelta v t n
    | .implementation k =>
      if deltaConforms v t (Config.implementedDelta k v t n) then Config.implementedDelta k v t n
      else rootDelta v t n
  else Config.deltaOutside v t n

namespace Machine

/-- Completes a command: its register writes and its response, in one step (spec/20_memory.md R34, R36). -/
def State.reply (s : State) (p : Port) (r : Regs) (rdata : Word) : State :=
  { s with regs := r, response := some ⟨p, rdata⟩ }

/-- The one error condition, DegenerateTransition (spec/60_exceptions.md R76): it is recorded in the sticky bit DEGEN, and the
command goes on with the clamped value. It changes no control flow and saves nothing (R80). -/
def Regs.recordDegenerate (r : Regs) (clamped : Bool) : Regs := { r with degen := r.degen || clamped }

/-- Reset becomes asserted (spec/70_reset_and_hazards.md R90, R92): every register is written, and no response is under way. -/
def State.assertReset (s : State) : State :=
  { s with regs := Regs.afterReset s.cfg, response := none, resetLine := true }

/-- Reset ends; the registers are as R92 left them. -/
def State.releaseReset (s : State) : State := { s with resetLine := false }

/-- A command while reset is asserted: not accepted, no response (R90, spec/93_implementation_defined.md I11). -/
def State.ignoreCommand (s : State) : State := { s with response := none }

end Machine

/-- A word as four bytes, least significant byte first (spec/20_memory.md R32). -/
def wordBytes (w : Word) : List (BitVec 8) :=
  [w.extractLsb' 0 8, w.extractLsb' 8 8, w.extractLsb' 16 8, w.extractLsb' 24 8]

/-- The word of four bytes, least significant byte first (R32); none of another number of bytes, since there is no narrower or
wider transfer. -/
def wordOfBytes : List (BitVec 8) → Option Word
  | [b0, b1, b2, b3] => some (b3 ++ b2 ++ b1 ++ b0)
  | _ => none

end Sys2Proof
end

