-- ==== Sys2Proof/Machine/Operands.lean ====
section
/-! DEFINITION. The operand forms (spec/30_encoding.md R47, R48). An f32 operand is used as the word it is, with no conversion, and
what it writes passes Sanitize (spec/41_control_writes.md R59); a u32 operand is used as it is; an ignored operand is no part of an
instruction. -/

namespace Sys2Proof

/-- Sanitize (R59): the legal value, and whether the operand was clamped. -/
def Config.sanitize (cfg : Config) (w : F32) : F32 × Bool :=
  if isNaN w || !F32.lt 0#32 w then (cfg.vMin, true)
  else if F32.lt w cfg.vMin then (cfg.vMin, true)
  else if F32.lt cfg.vMax w then (cfg.vMax, true)
  else (w, false)

/-- A u32 operand: nothing is sign-extended, scaled or shifted (R47). -/
def u32Operand (w : Word) : Word := w

end Sys2Proof
end

