-- ==== Sys2Proof/Machine/ControlWrites.lean ====
section
/-! DEFINITION. The control port's writes SET_TARGET, SET_DURATION and INIT (spec/41_control_writes.md). Each returns 0
(spec/30_encoding.md R51). -/

namespace Sys2Proof.Machine

/-- The registers after SET_TARGET with the sanitized target t (R64): a jump at DURATION 0, else a transition that starts from VALUE
as it is now. -/
def Regs.retarget (cfg : Config) (r : Regs) (t : F32) : Regs :=
  if r.duration = 0#32 then { r with target := t, value := t, delta := one, remaining := 0#32 }
  else { r with target := t, delta := cfg.deltaFn r.value t r.duration, remaining := r.duration }

/-- SET_TARGET (R64). -/
def execSetTarget (target : F32) (s : State) : Host.Outcome State Fault Refusal :=
  .next (s.reply .control
    ((s.regs.recordDegenerate (s.cfg.sanitize target).2).retarget s.cfg (s.cfg.sanitize target).1) 0#32)

/-- SET_DURATION (R65). -/
def execSetDuration (count : Word) (s : State) : Host.Outcome State Fault Refusal :=
  .next (s.reply .control { s.regs with duration := u32Operand count } 0#32)

/-- The registers after INIT with the sanitized value v (R66). -/
def Regs.startAt (r : Regs) (v : F32) : Regs :=
  { r with value := v, target := v, delta := one, remaining := 0#32 }

/-- INIT (R66). -/
def execInit (value : F32) (s : State) : Host.Outcome State Fault Refusal :=
  .next (s.reply .control
    ((s.regs.recordDegenerate (s.cfg.sanitize value).2).startAt (s.cfg.sanitize value).1) 0#32)

end Sys2Proof.Machine
end

