-- ==== Sys2Proof/Machine/Flags.lean ====
section
/-! DEFINITION. STATUS and its bits (spec/10_state.md R19, R20, spec/42_reads.md R70, R71). -/

namespace Sys2Proof.Machine

/-- `COMPLETE = (REMAINING = 0)` (R20). -/
def Regs.isComplete (r : Regs) : Bool := r.remaining == 0#32

/-- `zext_32(REMAINING = 0)` (R70). -/
def Regs.completeWord (r : Regs) : Word := (BitVec.ofBool r.isComplete).setWidth 32

/-- `{zeros(30), STATUS.DEGEN, (REMAINING = 0)}` (R71). -/
def Regs.statusWord (r : Regs) : Word := 0#30 ++ BitVec.ofBool r.degen ++ BitVec.ofBool r.isComplete

end Sys2Proof.Machine
end

