-- ==== Sys2Proof/Machine/Reads.lean ====
section
/-! DEFINITION. The reads (spec/42_reads.md): each returns a word to the port it came on and writes no register (R75). -/

namespace Sys2Proof.Machine

/-- A command that writes no register and returns a word. -/
def State.answer (s : State) (p : Port) (rdata : Word) : State := s.reply p s.regs rdata

/-- READ_VALUE (R68). -/
def execReadValue (p : Port) (s : State) : Host.Outcome State Fault Refusal :=
  .next (s.answer p s.regs.value)

/-- READ_TARGET (R69). -/
def execReadTarget (p : Port) (s : State) : Host.Outcome State Fault Refusal :=
  .next (s.answer p s.regs.target)

/-- COMPLETE (R70). -/
def execComplete (p : Port) (s : State) : Host.Outcome State Fault Refusal :=
  .next (s.answer p s.regs.completeWord)

/-- READ_STATUS (R71). -/
def execReadStatus (p : Port) (s : State) : Host.Outcome State Fault Refusal :=
  .next (s.answer p s.regs.statusWord)

/-- READ_REMAINING (R72), port C only. -/
def execReadRemaining (s : State) : Host.Outcome State Fault Refusal :=
  .next (s.answer .control s.regs.remaining)

/-- READ_DURATION (R73), port C only. -/
def execReadDuration (s : State) : Host.Outcome State Fault Refusal :=
  .next (s.answer .control s.regs.duration)

/-- READ_DELTA (R74), port C only. -/
def execReadDelta (s : State) : Host.Outcome State Fault Refusal :=
  .next (s.answer .control s.regs.delta)

end Sys2Proof.Machine
end

