-- ==== Sys2Proof/Machine/ReservedCommands.lean ====
section
/-! DEFINITION. The commands that the decoder calls reserved (spec/30_encoding.md R50). -/

namespace Sys2Proof.Machine

/-- RESERVED (R50): changes no register and returns 0, whatever its opcode. -/
def execReserved (p : Port) (s : State) : Host.Outcome State Fault Refusal :=
  .next (s.answer p 0#32)

end Sys2Proof.Machine
end

