-- ==== Sys2Proof/Machine/SamplePort.lean ====
section
/-! DEFINITION. The sample port's command STEP (spec/40_sample_port.md). -/

namespace Sys2Proof.Machine

/-- The registers after one sample (R55). -/
def Regs.advance (cfg : Config) (r : Regs) : Regs :=
  if r.remaining = 0#32 then { r with value := r.target }
  else if r.remaining - 1#32 = 0#32 ∧ cfg.finalSnap = true then
    { r with remaining := r.remaining - 1#32, value := r.target }
  else
    { r with remaining := r.remaining - 1#32, value := cfg.clampR (mul32 r.value r.delta) }

/-- STEP (R55): advance one sample, then return VALUE. -/
def execStep (s : State) : Host.Outcome State Fault Refusal :=
  .next (s.reply .sample (s.regs.advance s.cfg) (s.regs.advance s.cfg).value)

end Sys2Proof.Machine
end

