-- ==== Sys2Proof/Machine/Dispatch.lean ====
section
/-! DEFINITION. One arm per instruction. -/

namespace Sys2Proof.Machine

def exec (i : Instr) (s : State) : Host.Outcome State Fault Refusal :=
  match i with
  | .step => Sys2Proof.Machine.execStep s
  | .setTarget target => Sys2Proof.Machine.execSetTarget target s
  | .setDuration count => Sys2Proof.Machine.execSetDuration count s
  | .init value => Sys2Proof.Machine.execInit value s
  | .readValue p => Sys2Proof.Machine.execReadValue p s
  | .readTarget p => Sys2Proof.Machine.execReadTarget p s
  | .complete p => Sys2Proof.Machine.execComplete p s
  | .readStatus p => Sys2Proof.Machine.execReadStatus p s
  | .readRemaining => Sys2Proof.Machine.execReadRemaining s
  | .readDuration => Sys2Proof.Machine.execReadDuration s
  | .readDelta => Sys2Proof.Machine.execReadDelta s
  | .reserved p _ => Sys2Proof.Machine.execReserved p s

end Sys2Proof.Machine
end

