-- ==== Sys2Proof/Machine/Ports.lean ====
section
/-! DEFINITION. How what reaches the ports is taken: one input after the other, in the total order of spec/20_memory.md R37. -/

namespace Sys2Proof.Machine

/-- A command is decoded on its port and runs, in one step (R36); while reset is asserted it is not accepted
(spec/70_reset_and_hazards.md R90). -/
def acceptCommand (c : Command) (s : State) : Host.Outcome State Fault Refusal :=
  if s.resetLine then .next s.ignoreCommand else exec (decode c) s

/-- Two commands that reach the ports together: the free value `Config.controlFirst` says which goes first, and the other is the
next input (R37). -/
def acceptTogether (onControl onSample : CommandWord) (s : State) : Host.Outcome State Fault Refusal :=
  if Config.controlFirst s.ties then
    acceptCommand ⟨.control, onControl⟩
      { s with ties := s.ties + 1, inputs := .command ⟨.sample, onSample⟩ :: s.inputs }
  else
    acceptCommand ⟨.sample, onSample⟩
      { s with ties := s.ties + 1, inputs := .command ⟨.control, onControl⟩ :: s.inputs }

/-- Takes one input. -/
def acceptInput (i : Input) (s : State) : Host.Outcome State Fault Refusal :=
  match i with
  | .command c => acceptCommand c s
  | .together onControl onSample => acceptTogether onControl onSample s
  | .resetAssert => .next s.assertReset
  | .resetRelease => .next s.releaseReset

/-- The next input, taken out of `inputs`; between commands the block does nothing and keeps all its state
(spec/60_exceptions.md R88). -/
def takeNext (s : State) : Host.Outcome State Fault Refusal :=
  match s.inputs with
  | [] => .next s
  | i :: rest => acceptInput i { s with inputs := rest }

end Sys2Proof.Machine
end

