-- ==== Sys2Proof/Machine/Step.lean ====
section
/-! DEFINITION. One step of the machine: the next input is taken. A configuration that breaks spec/00_scope.md R4 is refused. -/

namespace Sys2Proof.Machine

def step (s : State) : Host.Outcome State Fault Refusal :=
  if s.cfg.legal then takeNext s else .refused .illegalConfiguration

/-- s with the command word w about to reach the block: it is the next input, on the port that R52 gives a line that names none (S
for STEP, C for every other), and reset is released. Bits of w above 39 are dropped, and nbits is not used: the bits above it are
zeros (DESIGN CHOICE, notes/assumptions/20.md). -/
def State.withFetchWord (s : State) (_nbits w : Nat) : State :=
  { s with
    inputs := .command ⟨defaultPort (opField (BitVec.ofNat 40 w)), BitVec.ofNat 40 w⟩ :: s.inputs
    resetLine := false }

end Sys2Proof.Machine
end

