-- ==== Sys2Proof/Machine/Assembler.lean ====
section
/-! DEFINITION. The text form of commands and the pseudo-instructions (spec/30_encoding.md R52, R53): from a line of text to the
commands it stands for. -/

namespace Sys2Proof

/-! ## Lines -/

/-- An f32 operand (R52): a decimal literal ± digits · 10^exponent, or a raw bit pattern. -/
inductive F32Literal where
  | decimal (negative : Bool) (digits : Nat) (exponent : Int)
  | bits (w : Word)
  deriving DecidableEq, Repr

/-- The mnemonics of R46 and the pseudo-instructions of R53, with their operands. -/
inductive AsmOp where
  | step
  | setTarget (t : F32Literal)
  | setDuration (n : Word)
  | init (v : F32Literal)
  | readValue
  | readTarget
  | complete
  | readStatus
  | readRemaining
  | readDuration
  | readDelta
  /-- `GLIDE t, n`: glide to t over n samples (R53). -/
  | glide (t : F32Literal) (n : Word)
  /-- `JUMP v`: jump to v with no glide (R53). -/
  | jump (v : F32Literal)
  /-- `SETTLED`: test whether the transition is over (R53). -/
  | settled
  deriving DecidableEq, Repr

/-- One line: `[<port>:] <MNEMONIC> [<operand>]` (R52). -/
structure AsmLine where
  port : Option Port
  op : AsmOp
  deriving DecidableEq, Repr

/-- The real number digits · 10^exponent. -/
def decimalCut (digits : Nat) (exponent : Int) : Cut := fun m e =>
  if 0 ≤ exponent then compareDyadic (digits * Nat.pow 10 exponent.toNat) 150 m e
  else compareDyadic digits 150 (m * Nat.pow 10 (-exponent).toNat) e

/-- The word of a decimal literal whose magnitude rounds to the non-negative word m. A literal that rounds to zero is +0, whatever
its sign: the raw form is "the only way to write a NaN or a pattern with a chosen sign of zero" (R52; that the one zero is +0 and
not -0 is DEDUCED, notes/assumptions/17.md). Any other negative literal is the mirror image of its magnitude
(notes/assumptions/19.md). -/
def signedLiteral (negative : Bool) (m : F32) : F32 := withSign (negative && m != 0#32) m

/-- The operand word: a decimal literal is converted with `rne32`, a raw pattern is used as given (R52). -/
def F32Literal.word : F32Literal → Word
  | .decimal negative digits exponent => signedLiteral negative (rne32 (decimalCut digits exponent))
  | .bits w => w

/-- One command on the named port, or on the port R52 gives where none is named. -/
def AsmLine.send (l : AsmLine) (op : Opcode) (operand : Word) : List Command :=
  [⟨l.port.getD (defaultPort op), commandWord op operand⟩]

/-- The commands a line stands for (R52, R53); an ignored operand is assembled as zero. -/
def AsmLine.assemble (l : AsmLine) : List Command :=
  match l.op with
  | .step => l.send 0x01#8 0#32
  | .setTarget t => l.send 0x02#8 t.word
  | .setDuration n => l.send 0x03#8 n
  | .init v => l.send 0x04#8 v.word
  | .readValue => l.send 0x05#8 0#32
  | .readTarget => l.send 0x06#8 0#32
  | .complete => l.send 0x07#8 0#32
  | .readStatus => l.send 0x08#8 0#32
  | .readRemaining => l.send 0x09#8 0#32
  | .readDuration => l.send 0x0A#8 0#32
  | .readDelta => l.send 0x0B#8 0#32
  | .glide t n => [⟨.control, commandWord 0x03#8 n⟩, ⟨.control, commandWord 0x02#8 t.word⟩]
  | .jump v => [⟨.control, commandWord 0x04#8 v.word⟩]
  | .settled => l.send 0x07#8 0#32

/-! ## From text to lines -/

inductive Token where
  | word (cs : List Char)
  | colon
  | comma
  deriving DecidableEq, Repr

/-- The token of the characters read so far, newest first. -/
def endToken : List Char → List Token
  | [] => []
  | c :: cs => [.word (c :: cs).reverse]

/-- Splits a line into tokens; a comment starts at ';' (R52). -/
def tokenize : List Char → List Char → List Token
  | [], cur => endToken cur
  | c :: cs, cur =>
    if c = ';' then endToken cur
    else if c = ' ' ∨ c = '\t' then endToken cur ++ tokenize cs []
    else if c = ':' then endToken cur ++ .colon :: tokenize cs []
    else if c = ',' then endToken cur ++ .comma :: tokenize cs []
    else tokenize cs (c :: cur)

def decimalDigit (c : Char) : Option Nat :=
  if '0'.toNat ≤ c.toNat ∧ c.toNat ≤ '9'.toNat then some (c.toNat - '0'.toNat) else none

def hexDigit (c : Char) : Option Nat :=
  if 'a'.toNat ≤ c.toNat ∧ c.toNat ≤ 'f'.toNat then some (c.toNat - 'a'.toNat + 10)
  else if 'A'.toNat ≤ c.toNat ∧ c.toNat ≤ 'F'.toNat then some (c.toNat - 'A'.toNat + 10)
  else decimalDigit c

/-- The number of the leading digits, how many there are, and the rest. -/
def scanDigits (base : Nat) (digit : Char → Option Nat) : List Char → (acc count : Nat) → Nat × Nat × List Char
  | [], acc, count => (acc, count, [])
  | c :: cs, acc, count =>
    match digit c with
    | some d => scanDigits base digit cs (acc * base + d) (count + 1)
    | none => (acc, count, c :: cs)

/-- A number that takes all the characters, at least one. -/
def wholeNumber (base : Nat) (digit : Char → Option Nat) (cs : List Char) : Option Nat :=
  match scanDigits base digit cs 0 0 with
  | (n, _ + 1, []) => some n
  | _ => none

/-- A u32 operand: decimal or `0x` hex, 0 to 2^32 - 1 (R52). -/
def parseU32 (cs : List Char) : Option Word :=
  match (match cs with
    | '0' :: 'x' :: rest => wholeNumber 16 hexDigit rest
    | _ => wholeNumber 10 decimalDigit cs) with
  | some n => if n < 0x100000000 then some (BitVec.ofNat 32 n) else none
  | none => none

/-- The power of ten after an 'e' or 'E': a decimal number with '-', with '+' or with no sign. R52 shows only '-' (PRESUMED,
notes/assumptions/17.md). -/
def parseExponent : List Char → Option Int
  | '-' :: rest => (wholeNumber 10 decimalDigit rest).map fun n => -(n : Int)
  | '+' :: rest => (wholeNumber 10 decimalDigit rest).map fun n => (n : Int)
  | rest => (wholeNumber 10 decimalDigit rest).map fun n => (n : Int)

/-- An unsigned decimal literal such as 2.0 or 1e-3: its digits as one number, and its power of ten. That 'E'
serves as 'e', that digits must stand before a point and need not stand after it, and that no '+' may come first, R52 leaves open
(PRESUMED, notes/assumptions/17.md). -/
def parseUnsigned (cs : List Char) : Option (Nat × Int) :=
  match scanDigits 10 decimalDigit cs 0 0 with
  | (_, 0, _) => none
  | (n, _ + 1, rest) =>
    match (match rest with
      | '.' :: frac => scanDigits 10 decimalDigit frac n 0
      | _ => (n, 0, rest)) with
    | (m, places, []) => some (m, -(places : Int))
    | (m, places, 'e' :: ex) => (parseExponent ex).map fun k => (m, k - places)
    | (m, places, 'E' :: ex) => (parseExponent ex).map fun k => (m, k - places)
    | _ => none

/-- An f32 operand: a decimal literal, or a raw bit pattern such as #0x40000000 (R52). -/
def parseF32 : List Char → Option F32Literal
  | '#' :: '0' :: 'x' :: rest =>
    match wholeNumber 16 hexDigit rest with
    | some n => if n < 0x100000000 then some (.bits (BitVec.ofNat 32 n)) else none
    | none => none
  | '-' :: rest => (parseUnsigned rest).map fun d => .decimal true d.1 d.2
  | rest => (parseUnsigned rest).map fun d => .decimal false d.1 d.2

/-- The mnemonics that take no operand. -/
def plainOps : List (List Char × AsmOp) :=
  [("STEP".toList, .step), ("READ_VALUE".toList, .readValue), ("READ_TARGET".toList, .readTarget),
   ("COMPLETE".toList, .complete), ("READ_STATUS".toList, .readStatus), ("READ_REMAINING".toList, .readRemaining),
   ("READ_DURATION".toList, .readDuration), ("READ_DELTA".toList, .readDelta), ("SETTLED".toList, .settled)]

def parseOp : List Token → Option AsmOp
  | [.word m] => plainOps.lookup m
  | [.word m, .word x] =>
    if m = "SET_TARGET".toList then (parseF32 x).map .setTarget
    else if m = "SET_DURATION".toList then (parseU32 x).map .setDuration
    else if m = "INIT".toList then (parseF32 x).map .init
    else if m = "JUMP".toList then (parseF32 x).map .jump
    else none
  | [.word m, .word x, .comma, .word n] =>
    if m = "GLIDE".toList then
      match parseF32 x, parseU32 n with
      | some t, some k => some (.glide t k)
      | _, _ => none
    else none
  | _ => none

/-- One line of text (R52); none where it is no line of that form. -/
def parseLine (cs : List Char) : Option AsmLine :=
  match tokenize cs [] with
  | .word ['C'] :: .colon :: rest => (parseOp rest).map fun op => ⟨some .control, op⟩
  | .word ['S'] :: .colon :: rest => (parseOp rest).map fun op => ⟨some .sample, op⟩
  | rest => (parseOp rest).map fun op => ⟨none, op⟩

/-- The commands of a line of text. -/
def assembleText (line : String) : Option (List Command) := (parseLine line.toList).map AsmLine.assemble

end Sys2Proof
end

