-- ==== Sys2Proof/Safety.lean ====
section
/-! DEFINITION. What counts as a good state and a safe run. -/

namespace Sys2Proof.Machine

/-- The invariants of spec/10_state.md on the registers: VALUE and TARGET are numbers in [V_MIN, V_MAX] (R21), a settled block has
VALUE = TARGET (R22, which depends on FINAL_SNAP), and DELTA is never a NaN and never negative (R15). -/
structure Regs.Good (cfg : Config) (r : Regs) : Prop where
  value_inRange : cfg.inRange r.value = true
  target_inRange : cfg.inRange r.target = true
  settled : cfg.finalSnap = true → r.remaining = 0#32 → r.value = r.target
  delta_notNaN : isNaN r.delta = false
  delta_notNegative : F32.lt r.delta 0#32 = false

/-- The state of a legal block (spec/00_scope.md R4) with good registers. -/
structure State.Good (s : State) : Prop where
  legal : s.cfg.legal = true
  regs : s.regs.Good s.cfg

/-- A safe run of n steps: every step answers a next state, and every state on the way is good. -/
def SafeFor : Nat → State → Prop
  | 0, s => s.Good
  | n + 1, s => s.Good ∧ ∃ t, step s = .next t ∧ SafeFor n t

/-- The state after the instructions of a list, run one after the other with no other command between (no instruction faults or is
refused, R61, R80; the match keeps the state where one would be). -/
def runCommands : List Instr → State → State
  | [], s => s
  | i :: rest, s =>
    match exec i s with
    | .next t => runCommands rest t
    | .fault _ => s
    | .refused _ => s

end Sys2Proof.Machine
end

