-- ==== Sys2Proof/Certificates/Slice0/Obligations.lean ====
section
/-! DEFINITION. The statements about the model that are to be proved. R<n> is a rule of spec/. -/

open Sys2Proof Sys2Proof.Machine

/-! ## What each command does -/

/-- R55. STEP is the command 0x01 of port S, whatever its operand; it advances one sample and then returns VALUE: at REMAINING 0 it
copies TARGET, on the last sample it snaps to TARGET exactly, and before that it multiplies by DELTA and clamps. Nothing else
changes. -/
def Obligations.StepAdvancesThenReturns : Prop :=
  ∀ s : State,
    (∀ x : Word, decode ⟨.sample, commandWord 0x01#8 x⟩ = .step) ∧
    (∀ x : Word, decode ⟨.control, commandWord 0x01#8 x⟩ = .reserved .control 0x01#8) ∧
    (s.regs.remaining = 0#32 →
      exec .step s = .next { s with
        regs := { s.regs with value := s.regs.target }
        response := some ⟨.sample, s.regs.target⟩ }) ∧
    (s.regs.remaining = 1#32 → s.cfg.finalSnap = true →
      exec .step s = .next { s with
        regs := { s.regs with remaining := 0#32, value := s.regs.target }
        response := some ⟨.sample, s.regs.target⟩ }) ∧
    (s.regs.remaining ≠ 0#32 → ¬ (s.regs.remaining = 1#32 ∧ s.cfg.finalSnap = true) →
      exec .step s = .next { s with
        regs := { s.regs with
          remaining := s.regs.remaining - 1#32
          value := s.cfg.clampR (mul32 s.regs.value s.regs.delta) }
        response := some ⟨.sample, s.cfg.clampR (mul32 s.regs.value s.regs.delta)⟩ })

/-- R64. SET_TARGET is the command 0x02 of port C; its operand passes Sanitize; at DURATION 0 it jumps, else it starts a transition
from the VALUE of now over the full DURATION; it returns 0. Nothing else changes. -/
def Obligations.SetTargetStartsTransition : Prop :=
  ∀ (s : State) (t : F32),
    decode ⟨.control, commandWord 0x02#8 t⟩ = .setTarget t ∧
    decode ⟨.sample, commandWord 0x02#8 t⟩ = .reserved .sample 0x02#8 ∧
    (s.regs.duration = 0#32 →
      exec (.setTarget t) s = .next { s with
        regs := { value := (s.cfg.sanitize t).1, target := (s.cfg.sanitize t).1, delta := one, remaining := 0#32,
                  duration := 0#32, degen := s.regs.degen || (s.cfg.sanitize t).2 }
        response := some ⟨.control, 0#32⟩ }) ∧
    (s.regs.duration ≠ 0#32 →
      exec (.setTarget t) s = .next { s with
        regs := { value := s.regs.value, target := (s.cfg.sanitize t).1,
                  delta := s.cfg.deltaFn s.regs.value (s.cfg.sanitize t).1 s.regs.duration,
                  remaining := s.regs.duration, duration := s.regs.duration,
                  degen := s.regs.degen || (s.cfg.sanitize t).2 }
        response := some ⟨.control, 0#32⟩ })

/-- R65. SET_DURATION is the command 0x03 of port C; every u32 is legal; only DURATION changes, so a running transition does not;
it returns 0. -/
def Obligations.SetDurationWritesDuration : Prop :=
  ∀ (s : State) (n : Word),
    decode ⟨.control, commandWord 0x03#8 n⟩ = .setDuration n ∧
    decode ⟨.sample, commandWord 0x03#8 n⟩ = .reserved .sample 0x03#8 ∧
    exec (.setDuration n) s = .next { s with
      regs := { s.regs with duration := n }
      response := some ⟨.control, 0#32⟩ }

/-- R66. INIT is the command 0x04 of port C; VALUE and TARGET are the sanitized operand, DELTA is 1.0, REMAINING is 0, DURATION is
kept; it returns 0. -/
def Obligations.InitSetsValueAndTarget : Prop :=
  ∀ (s : State) (v : F32),
    decode ⟨.control, commandWord 0x04#8 v⟩ = .init v ∧
    decode ⟨.sample, commandWord 0x04#8 v⟩ = .reserved .sample 0x04#8 ∧
    exec (.init v) s = .next { s with
      regs := { value := (s.cfg.sanitize v).1, target := (s.cfg.sanitize v).1, delta := 0x3F800000#32, remaining := 0#32,
                duration := s.regs.duration, degen := s.regs.degen || (s.cfg.sanitize v).2 }
      response := some ⟨.control, 0#32⟩ }

/-- R68, R69, R72, R73, R74. Each read of a register is the command of its opcode on each port that accepts it, returns the register
to that port and changes no register. -/
def Obligations.RegisterReadsReturnRegister : Prop :=
  ∀ (s : State) (p : Port) (x : Word),
    (decode ⟨p, commandWord 0x05#8 x⟩ = .readValue p ∧
      exec (.readValue p) s = .next { s with response := some ⟨p, s.regs.value⟩ }) ∧
    (decode ⟨p, commandWord 0x06#8 x⟩ = .readTarget p ∧
      exec (.readTarget p) s = .next { s with response := some ⟨p, s.regs.target⟩ }) ∧
    (decode ⟨.control, commandWord 0x09#8 x⟩ = .readRemaining ∧
      decode ⟨.sample, commandWord 0x09#8 x⟩ = .reserved .sample 0x09#8 ∧
      exec .readRemaining s = .next { s with response := some ⟨.control, s.regs.remaining⟩ }) ∧
    (decode ⟨.control, commandWord 0x0A#8 x⟩ = .readDuration ∧
      decode ⟨.sample, commandWord 0x0A#8 x⟩ = .reserved .sample 0x0A#8 ∧
      exec .readDuration s = .next { s with response := some ⟨.control, s.regs.duration⟩ }) ∧
    (decode ⟨.control, commandWord 0x0B#8 x⟩ = .readDelta ∧
      decode ⟨.sample, commandWord 0x0B#8 x⟩ = .reserved .sample 0x0B#8 ∧
      exec .readDelta s = .next { s with response := some ⟨.control, s.regs.delta⟩ })

/-- R70. COMPLETE is the command 0x07 of both ports and returns 1 if REMAINING is 0 and 0 otherwise; no register changes. -/
def Obligations.CompleteReportsSettled : Prop :=
  ∀ (s : State) (p : Port) (x : Word),
    decode ⟨p, commandWord 0x07#8 x⟩ = .complete p ∧
    exec (.complete p) s = .next { s with
      response := some ⟨p, if s.regs.remaining.toNat = 0 then 1#32 else 0#32⟩ }

/-- R71. READ_STATUS is the command 0x08 of both ports; bit 0 of its word is COMPLETE, bit 1 is DEGEN, bits 31:2 are 0; no register
changes. -/
def Obligations.ReadStatusReturnsStatusWord : Prop :=
  ∀ (s : State) (p : Port) (x : Word),
    decode ⟨p, commandWord 0x08#8 x⟩ = .readStatus p ∧
    exec (.readStatus p) s = .next { s with
      response := some ⟨p, BitVec.ofNat 32
        ((if s.regs.degen then 2 else 0) + (if s.regs.remaining.toNat = 0 then 1 else 0))⟩ }

/-- R50. A command whose OP is reserved (0x00 or 0x0C to 0xFF), or whose OP its port does not accept, changes no register and
returns 0 to its port. -/
def Obligations.ReservedCommandIsNoOp : Prop :=
  ∀ (s : State) (p : Port) (op : Opcode) (x : Word),
    (op.toNat = 0x00 ∨ 0x0C ≤ op.toNat ∨ accepts p op = false → decode ⟨p, commandWord op x⟩ = .reserved p op) ∧
    exec (.reserved p op) s = .next { s with response := some ⟨p, 0#32⟩ }

/-! ## Encoding -/

/-- R46, R54: words written out from the opcode map, on a port that accepts them and on one that does not. -/
def Obligations.SpecWordsDecode : Prop :=
  decode ⟨.sample, 0x0100000000#40⟩ = .step ∧
  decode ⟨.sample, 0x01FFFFFFFF#40⟩ = .step ∧
  decode ⟨.control, 0x0240A00000#40⟩ = .setTarget 0x40A00000#32 ∧
  decode ⟨.control, 0x030000BB80#40⟩ = .setDuration 48000#32 ∧
  decode ⟨.control, 0x0442F00000#40⟩ = .init 0x42F00000#32 ∧
  decode ⟨.sample, 0x0500000000#40⟩ = .readValue .sample ∧
  decode ⟨.control, 0x0B00000000#40⟩ = .readDelta ∧
  decode ⟨.control, 0x0012345678#40⟩ = .reserved .control 0x00#8 ∧
  decode ⟨.sample, 0xFFFFFFFFFF#40⟩ = .reserved .sample 0xFF#8 ∧
  decode ⟨.control, 0x0100000000#40⟩ = .reserved .control 0x01#8

/-- Decoding the command that stands for a well-formed instruction gives it back, with every operand. -/
def Obligations.DecodeEncodeRoundTrip : Prop :=
  ∀ i : Instr, i.wellFormed = true → decode (encode i) = i

/-- R43, R48, R54: every command decodes to a well-formed instruction, and encoding that gives the command back but for an operand
that the block does not read. -/
def Obligations.EncodeDecodeKeepsCommand : Prop :=
  ∀ c : Command,
    (decode c).wellFormed = true ∧
    (encode (decode c)).port = c.port ∧
    opField (encode (decode c)).word = opField c.word ∧
    (c.port = .control → opField c.word ∈ [0x02#8, 0x03#8, 0x04#8] → encode (decode c) = c)

/-- R48. For an opcode whose operand is ignored, every operand value decodes to the same instruction. -/
def Obligations.IgnoredOperandHasNoEffect : Prop :=
  ∀ (p : Port) (op : Opcode) (x y : Word), op ∉ [0x02#8, 0x03#8, 0x04#8] →
    decode ⟨p, commandWord op x⟩ = decode ⟨p, commandWord op y⟩

/-- R49. Port S accepts STEP, READ_VALUE, READ_TARGET, COMPLETE and READ_STATUS, port C every opcode of the map except STEP, and
every other opcode is handled as reserved there. -/
def Obligations.PortsAcceptTheirOpcodes : Prop :=
  ∀ (op : Opcode) (x : Word),
    (decode ⟨.sample, commandWord op x⟩ = .reserved .sample op ↔
      op ∉ [0x01#8, 0x05#8, 0x06#8, 0x07#8, 0x08#8]) ∧
    (decode ⟨.control, commandWord op x⟩ = .reserved .control op ↔
      op ∉ [0x02#8, 0x03#8, 0x04#8, 0x05#8, 0x06#8, 0x07#8, 0x08#8, 0x09#8, 0x0A#8, 0x0B#8])

/-- R52, R53: what every parsed line (AsmLine) stands for, on each port it may name and on none: a named port is kept, with no port named
STEP goes to S and every other mnemonic to C, an ignored operand is zero, and GLIDE, JUMP and SETTLED expand as their table says
(GLIDE and JUMP on port C). A raw bit pattern is used as given. -/
def Obligations.PseudoInstructionsExpand : Prop :=
  ∀ (q : Option Port) (t : F32Literal) (w n : Word),
    AsmLine.assemble ⟨q, .step⟩ = [⟨q.getD .sample, 0x0100000000#40⟩] ∧
    AsmLine.assemble ⟨q, .setTarget t⟩ = [⟨q.getD .control, commandWord 0x02#8 t.word⟩] ∧
    AsmLine.assemble ⟨q, .setDuration n⟩ = [⟨q.getD .control, commandWord 0x03#8 n⟩] ∧
    AsmLine.assemble ⟨q, .init t⟩ = [⟨q.getD .control, commandWord 0x04#8 t.word⟩] ∧
    AsmLine.assemble ⟨q, .readValue⟩ = [⟨q.getD .control, 0x0500000000#40⟩] ∧
    AsmLine.assemble ⟨q, .readTarget⟩ = [⟨q.getD .control, 0x0600000000#40⟩] ∧
    AsmLine.assemble ⟨q, .complete⟩ = [⟨q.getD .control, 0x0700000000#40⟩] ∧
    AsmLine.assemble ⟨q, .readStatus⟩ = [⟨q.getD .control, 0x0800000000#40⟩] ∧
    AsmLine.assemble ⟨q, .readRemaining⟩ = [⟨q.getD .control, 0x0900000000#40⟩] ∧
    AsmLine.assemble ⟨q, .readDuration⟩ = [⟨q.getD .control, 0x0A00000000#40⟩] ∧
    AsmLine.assemble ⟨q, .readDelta⟩ = [⟨q.getD .control, 0x0B00000000#40⟩] ∧
    AsmLine.assemble ⟨q, .glide t n⟩ = [encode (.setDuration n), encode (.setTarget t.word)] ∧
    AsmLine.assemble ⟨q, .jump t⟩ = [encode (.init t.word)] ∧
    AsmLine.assemble ⟨q, .settled⟩ = [encode (.complete (q.getD .control))] ∧
    (F32Literal.bits w).word = w

/-- R32: a word serialized to bytes is little-endian, and four bytes so ordered give it back. -/
def Obligations.BytesAreLittleEndian : Prop :=
  ∀ w : Word, wordOfBytes (wordBytes w) = some w ∧
    ∀ k, k < 4 → (wordBytes w)[k]? = some (BitVec.ofNat 8 (w.toNat / 256 ^ k))

/-! ## The machine -/

/-- R36, R54: when the next input is a command that decodes to i, the port is out of reset and the configuration is legal, a step is
exec of i, with the input taken. -/
def Obligations.StepRunsDecodedCommand : Prop :=
  ∀ (s : State) (c : Command) (i : Instr) (rest : List Input),
    s.cfg.legal = true → s.inputs = .command c :: rest → s.resetLine = false → decode c = i →
      step s = exec i { s with inputs := rest }

/-- R88: between commands the block does nothing and keeps all its state. -/
def Obligations.IdleBlockKeepsState : Prop :=
  ∀ s : State, s.cfg.legal = true → s.inputs = [] → step s = .next s

/-- R92: reset writes every register. That this happens when reset becomes asserted, not when it ends, is read from R90 (DEDUCED,
notes/assumptions/12.md): the assertion also raises the reset line, so that no command is accepted until the release, and it leaves
no response (DESIGN CHOICE, notes/assumptions/11.md). The configuration and the later inputs are unchanged. -/
def Obligations.ResetWritesEveryRegister : Prop :=
  ∀ (s : State) (rest : List Input), s.cfg.legal = true → s.inputs = .resetAssert :: rest →
    ∃ t, step s = .next t ∧
      t.regs.value = s.cfg.resetValue ∧ t.regs.target = s.cfg.resetValue ∧ t.regs.delta = 0x3F800000#32 ∧
      t.regs.remaining = 0#32 ∧ t.regs.duration = s.cfg.resetDuration ∧ t.regs.degen = false ∧
      t.resetLine = true ∧ t.response = none ∧ t.cfg = s.cfg ∧ t.inputs = rest

/-- R92 and the spec's defaults of spec/00_scope.md section 4, which State.reset takes (notes/assumptions/1.md, 2.md). -/
def Obligations.ResetStateHoldsDefaults : Prop :=
  State.reset.regs = ⟨0x3F800000#32, 0x3F800000#32, 0x3F800000#32, 0#32, 0#32, false⟩ ∧
    State.reset.cfg.vMin = 0x00800000#32 ∧ State.reset.cfg.vMax = 0x7F7FFFFF#32 ∧ State.reset.cfg.legal = true

/-- R90: while reset is asserted a command is not accepted and gets no response, nor do two that reach the ports together; when
reset ends the registers are as reset left them. (That reset is a line, and that the model's response is emptied, are its choices:
notes/assumptions/11.md, 12.md; that two commands together take two steps is notes/assumptions/10.md.) -/
def Obligations.ResetLineBlocksCommands : Prop :=
  ∀ (s : State) (rest : List Input), s.cfg.legal = true → s.resetLine = true →
    (∀ c, s.inputs = .command c :: rest → step s = .next { s with inputs := rest, response := none }) ∧
    (∀ wc ws, s.inputs = .together wc ws :: rest →
      ∃ t u, step s = .next t ∧ step t = .next u ∧
        t.regs = s.regs ∧ t.response = none ∧ t.resetLine = true ∧
        u.regs = s.regs ∧ u.response = none ∧ u.resetLine = true ∧ u.cfg = s.cfg ∧ u.inputs = rest) ∧
    (s.inputs = .resetRelease :: rest → step s = .next { s with inputs := rest, resetLine := false })

/-- R37: two commands that reach the ports together run one after the other, in one of the two orders, with no other command in
between. Which one is a free value (notes/assumptions/10.md). -/
def Obligations.TogetherRunsInOneOrder : Prop :=
  ∀ (s : State) (wc ws : CommandWord) (rest : List Input),
    s.cfg.legal = true → s.inputs = .together wc ws :: rest → s.resetLine = false →
      ∃ t u, step s = .next t ∧ step t = .next u ∧ u.inputs = rest ∧
        (u.regs = (runCommands [decode ⟨.control, wc⟩, decode ⟨.sample, ws⟩] s).regs ∧
            u.response = (runCommands [decode ⟨.control, wc⟩, decode ⟨.sample, ws⟩] s).response ∨
          u.regs = (runCommands [decode ⟨.sample, ws⟩, decode ⟨.control, wc⟩] s).regs ∧
            u.response = (runCommands [decode ⟨.sample, ws⟩, decode ⟨.control, wc⟩] s).response)

/-- R61, R80, R34: every command completes, whatever the state: it writes registers and returns one word to the port it came on,
and touches nothing else of the machine. -/
def Obligations.EveryCommandCompletes : Prop :=
  ∀ (i : Instr) (s : State), ∃ (r : Regs) (rdata : Word),
    exec i s = .next { s with regs := r, response := some ⟨i.port, rdata⟩ }

/-- R4, R80: with a legal configuration no step stops, and an illegal one is refused by name. -/
def Obligations.StepStopsOnlyOnIllegalConfiguration : Prop :=
  ∀ s : State,
    (s.cfg.legal = true → ∃ t, step s = .next t ∧ t.cfg = s.cfg) ∧
    (s.cfg.legal = false → step s = .refused .illegalConfiguration)

/-! ## Invariants -/

/-- R21, R22, R15: every step keeps VALUE and TARGET in [V_MIN, V_MAX], VALUE = TARGET in a settled block, and DELTA neither a NaN
nor negative. -/
def Obligations.StepKeepsGood : Prop :=
  ∀ s t : State, s.Good → step s = .next t → t.Good

/-- The invariant holds at reset, for every legal configuration. -/
def Obligations.ResetStateIsGood : Prop :=
  State.reset.Good ∧ ∀ cfg : Config, cfg.legal = true → (Regs.afterReset cfg).Good cfg

/-- Every run from a good state goes on, through good states, whatever reaches the ports. -/
def Obligations.EveryRunIsSafe : Prop :=
  ∀ (n : Nat) (s : State), s.Good → SafeFor n s

/-- R21, R13, R14: in a good state VALUE and TARGET are finite, not NaN and strictly positive. -/
def Obligations.GoodValuesAreFinitePositive : Prop :=
  ∀ s : State, s.Good → ∀ x, x = s.regs.value ∨ x = s.regs.target →
    isFinite x = true ∧ isNaN x = false ∧ signBit x = false ∧ 0 < x.toNat ∧
      units s.cfg.vMin ≤ units x ∧ units x ≤ units s.cfg.vMax

/-- R22, R55: in a good settled block with FINAL_SNAP, a STEP returns the target exactly and leaves every register as it is. -/
def Obligations.SettledStepChangesNothing : Prop :=
  ∀ s : State, s.Good → s.cfg.finalSnap = true → s.regs.remaining = 0#32 →
    ∃ t, exec .step s = .next t ∧ t.regs = s.regs ∧ t.response = some ⟨.sample, s.regs.target⟩

/-! ## Rules about all commands -/

/-- R12, R67: which commands write which register; the rest of the machine no command writes. -/
def Obligations.RegistersChangeOnlyByTheirWriters : Prop :=
  ∀ (i : Instr) (s : State), ∃ t, exec i s = .next t ∧
    t.cfg = s.cfg ∧ t.inputs = s.inputs ∧ t.resetLine = s.resetLine ∧ t.ties = s.ties ∧
    (t.regs.value ≠ s.regs.value →
      i = .step ∨ (∃ v, i = .init v) ∨ (∃ w, i = .setTarget w ∧ s.regs.duration = 0#32)) ∧
    (t.regs.target ≠ s.regs.target → (∃ w, i = .setTarget w) ∨ (∃ v, i = .init v)) ∧
    (t.regs.delta ≠ s.regs.delta → (∃ w, i = .setTarget w) ∨ (∃ v, i = .init v)) ∧
    (t.regs.remaining ≠ s.regs.remaining → i = .step ∨ (∃ w, i = .setTarget w) ∨ (∃ v, i = .init v)) ∧
    (t.regs.duration ≠ s.regs.duration → ∃ n, i = .setDuration n) ∧
    (t.regs.degen ≠ s.regs.degen → (∃ w, i = .setTarget w) ∨ (∃ v, i = .init v))

/-- R75: no command other than STEP both returns a register and changes one: a command that changes a register and is no STEP
returns 0. -/
def Obligations.OnlyStepReturnsAndChanges : Prop :=
  ∀ (i : Instr) (s : State), ∃ t, exec i s = .next t ∧
    (i ≠ .step → t.regs ≠ s.regs → t.response = some ⟨.control, 0#32⟩)

/-- R76, R19: DEGEN becomes 1 exactly when the operand of a SET_TARGET or INIT is NaN, not greater than zero, below V_MIN or above
V_MAX, and no command clears it. -/
def Obligations.DegenRecordsDegenerateOperands : Prop :=
  ∀ (i : Instr) (s : State), ∃ t, exec i s = .next t ∧
    (t.regs.degen = true ↔ s.regs.degen = true ∨
      ∃ w, (i = .setTarget w ∨ i = .init w) ∧
        (isNaN w = true ∨ F32.lt 0#32 w = false ∨ F32.lt w s.cfg.vMin = true ∨ F32.lt s.cfg.vMax w = true))

/-- R84, R16, R23: REMAINING counts STEPs down to 0 and never wraps, SET_TARGET loads it with DURATION, INIT zeroes it, and nothing
else touches it. -/
def Obligations.RemainingCountsDown : Prop :=
  ∀ (i : Instr) (s : State), ∃ t, exec i s = .next t ∧
    (i = .step → t.regs.remaining.toNat = s.regs.remaining.toNat - 1) ∧
    ((∃ w, i = .setTarget w) → t.regs.remaining = s.regs.duration) ∧
    ((∃ v, i = .init v) → t.regs.remaining = 0#32) ∧
    ((∀ w, i ≠ .setTarget w) → t.regs.remaining.toNat ≤ s.regs.remaining.toNat)

/-- R35: every command but a STEP of a running transition is idempotent: issued again at once, it leaves the state, and returns the
word, that it did the first time. -/
def Obligations.RepeatedCommandChangesNothing : Prop :=
  ∀ (i : Instr) (s : State), (i = .step → s.regs.remaining = 0#32) →
    ∃ t, exec i s = .next t ∧ exec i t = .next t

/-- R49, R82: what reaches port S changes no register, unless it is a STEP. -/
def Obligations.SamplePortOnlyWritesByStep : Prop :=
  ∀ (w : CommandWord) (s : State), opField w ≠ 0x01#8 →
    ∃ t, exec (decode ⟨.sample, w⟩) s = .next t ∧ t.regs = s.regs

/-- R49, R82: a command of port S other than STEP does not depend on DELTA or DURATION, and of REMAINING only on whether it is 0: two
blocks that agree on the rest give the same response to it. (What STEP returns does depend on DELTA and REMAINING, R55.) -/
def Obligations.SampleReadsIgnorePrivateRegisters : Prop :=
  ∀ (w : CommandWord) (s s' : State), opField w ≠ 0x01#8 →
    s.regs.value = s'.regs.value → s.regs.target = s'.regs.target → s.regs.degen = s'.regs.degen →
    (s.regs.remaining = 0#32 ↔ s'.regs.remaining = 0#32) →
      ∃ t t', exec (decode ⟨.sample, w⟩) s = .next t ∧ exec (decode ⟨.sample, w⟩) s' = .next t' ∧
        t.response = t'.response

/-- R65, R39: a SET_DURATION does not change a running transition: it may come before or after a STEP, and the transition that a
SET_TARGET then starts is the same. -/
def Obligations.SetDurationCommutesWithStep : Prop :=
  ∀ (s : State) (n : Word) (w : F32),
    (runCommands [.setDuration n, .step] s).regs = (runCommands [.step, .setDuration n] s).regs ∧
    runCommands [.setDuration n, .step, .setTarget w] s = runCommands [.step, .setDuration n, .setTarget w] s

/-- R94: a SET_TARGET uses the DURATION in force when it runs; a SET_DURATION after it affects only the next SET_TARGET. -/
def Obligations.DurationIsWrittenBeforeTarget : Prop :=
  ∀ (s : State) (n : Word) (w : F32),
    (runCommands [.setDuration n, .setTarget w] s).regs.remaining = n ∧
    (runCommands [.setTarget w, .setDuration n] s).regs.remaining = s.regs.duration ∧
    (runCommands [.setTarget w, .setDuration n] s).regs.duration = n

/-! ## Whole transitions -/

/-- R56: the closed form. With N = REMAINING, the k-th of N consecutive STEPs returns the k-fold clamped product for k < N, the
N-th returns TARGET exactly, and so does every later one. -/
def Obligations.TransitionClosedForm : Prop :=
  ∀ (s : State) (k : Nat), s.cfg.finalSnap = true → 1 ≤ k →
    let u := runCommands (List.replicate k .step) s
    (k < s.regs.remaining.toNat →
      u.response = some ⟨.sample, Nat.iterate (fun x => s.cfg.clampR (mul32 x s.regs.delta)) k s.regs.value⟩ ∧
      u.regs.remaining.toNat = s.regs.remaining.toNat - k) ∧
    (s.regs.remaining.toNat ≤ k → u.response = some ⟨.sample, s.regs.target⟩ ∧ u.regs.remaining = 0#32)

/-- R57: the property of the source's section 8, for every N (0 included), from any state of the block whose range holds 2.0 (so
from VALUE = 1.0, after INIT 1.0 or reset): after SET_DURATION N, SET_TARGET 2.0 and N STEPs, VALUE = TARGET = 2.0 exactly, COMPLETE
is 1, and every further STEP returns 2.0. -/
def Obligations.DurationManyStepsReachTwo : Prop :=
  ∀ (s : State) (n : Word), s.cfg.finalSnap = true → s.cfg.inRange 0x40000000#32 = true →
    let u := runCommands ([.setDuration n, .setTarget 0x40000000#32] ++ List.replicate n.toNat .step) s
    u.regs.value = 0x40000000#32 ∧ u.regs.target = 0x40000000#32 ∧
    (∃ t, exec (.complete .sample) u = .next t ∧ t.response = some ⟨.sample, 1#32⟩) ∧
    ∀ m : Nat, (runCommands (List.replicate (m + 1) .step) u).response = some ⟨.sample, 0x40000000#32⟩

/-- R97: settling can be starved. Whatever targets are written, while each SET_TARGET is followed by fewer than DURATION STEPs
before the next, COMPLETE never becomes 1. -/
def Obligations.FrequentTargetsStarveSettling : Prop :=
  ∀ (s : State) (blocks : List (F32 × Nat)), s.regs.duration ≠ 0#32 → blocks ≠ [] →
    (∀ b ∈ blocks, b.2 < s.regs.duration.toNat) →
      (runCommands (blocks.flatMap fun b => Instr.setTarget b.1 :: List.replicate b.2 .step) s).regs.remaining ≠ 0#32

/-! ## Arithmetic -/

/-- R59, R60: with the spec's default range, what Sanitize makes of every word, by its bit pattern: a word from V_MIN to V_MAX
passes bit for bit, +inf becomes V_MAX, and everything else (both zeros, negatives, subnormals, NaNs, -inf) becomes V_MIN. -/
def Obligations.SanitizeByBitPattern : Prop :=
  ∀ w : Word, Config.specDefault.sanitize w =
    if 0x00800000 ≤ w.toNat ∧ w.toNat ≤ 0x7F7FFFFF then (w, false)
    else if w.toNat = 0x7F800000 then (0x7F7FFFFF#32, true)
    else (0x00800000#32, true)

/-- R59, R21: with any legal configuration, Sanitize gives a number in [V_MIN, V_MAX], and it clamps exactly the operands that are
none. -/
def Obligations.SanitizeGivesLegalValue : Prop :=
  ∀ (cfg : Config) (w : F32), cfg.legal = true →
    cfg.inRange (cfg.sanitize w).1 = true ∧
    (cfg.inRange w = true → cfg.sanitize w = (w, false)) ∧
    (cfg.inRange w = false → (cfg.sanitize w).2 = true)

/-- R9: clampR gives a number in [V_MIN, V_MAX]: V_MIN for what lies below, V_MAX for what lies above, and it changes none that is
there already. -/
def Obligations.ClampGivesLegalValue : Prop :=
  ∀ (cfg : Config) (x : F32), cfg.legal = true → isNaN x = false →
    cfg.inRange (cfg.clampR x) = true ∧ (cfg.inRange x = true → cfg.clampR x = x) ∧
    (F32.lt x cfg.vMin = true → cfg.clampR x = cfg.vMin) ∧
    (F32.lt cfg.vMax x = true → cfg.clampR x = cfg.vMax)

/-- R9: the product of two finite positive words is the finite word nearest to the exact product, the even one of two that are
equally near; a product above the largest finite value is +inf. (units gives a word in units of 2^-149, so products are in units of
2^-298.) -/
def Obligations.ProductIsNearestEven : Prop :=
  ∀ a b : F32, isFinite a = true → isFinite b = true → signBit a = false → signBit b = false →
    (units a * units b ≤ units 0x7F7FFFFF#32 * 2 ^ 149 →
      isFinite (mul32 a b) = true ∧ signBit (mul32 a b) = false ∧
      ∀ u : F32, isFinite u = true → signBit u = false → u ≠ mul32 a b →
        |((units (mul32 a b) * 2 ^ 149 : Nat) : Int) - ((units a * units b : Nat) : Int)| ≤
            |((units u * 2 ^ 149 : Nat) : Int) - ((units a * units b : Nat) : Int)| ∧
        (|((units (mul32 a b) * 2 ^ 149 : Nat) : Int) - ((units a * units b : Nat) : Int)| =
            |((units u * 2 ^ 149 : Nat) : Int) - ((units a * units b : Nat) : Int)| →
          (mul32 a b).toNat % 2 = 0)) ∧
    (units 0x7F7FFFFF#32 * 2 ^ 149 < units a * units b → mul32 a b = 0x7F800000#32)

/-- R55: with DELTA = 1.0 (TARGET = VALUE at the SET_TARGET) a STEP before the last leaves VALUE as it is, and REMAINING still
counts down. -/
def Obligations.UnitDeltaKeepsValue : Prop :=
  ∀ s : State, s.Good → s.regs.delta = 0x3F800000#32 → 1 < s.regs.remaining.toNat →
    ∃ t, exec .step s = .next t ∧ t.regs.value = s.regs.value ∧
      t.regs.remaining.toNat + 1 = s.regs.remaining.toNat

/-- R63: the properties P1 to P3 of DeltaFn, for every configured DeltaFn: never a NaN and never negative; exactly 1.0 where the
target is the value; at least 1.0 upwards and at most 1.0 downwards. -/
def Obligations.DeltaFnHasItsProperties : Prop :=
  ∀ (cfg : Config) (v t : F32) (n : Word), cfg.legal = true → cfg.inRange v = true → cfg.inRange t = true → n ≠ 0#32 →
    isNaN (cfg.deltaFn v t n) = false ∧ F32.lt (cfg.deltaFn v t n) 0#32 = false ∧
    (t = v → cfg.deltaFn v t n = 0x3F800000#32) ∧
    (F32.lt v t = true → F32.le 0x3F800000#32 (cfg.deltaFn v t n) = true) ∧
    (F32.lt t v = true → F32.le (cfg.deltaFn v t n) 0x3F800000#32 = true)

/-- R63, R9: the default DeltaFn is the exact real N-th root of t / v, rounded once: d lies between the middles to its two
neighbours (compared by N-th powers), it is even on a middle, and it is +inf exactly above the largest finite value. -/
def Obligations.DefaultDeltaIsRoundedRoot : Prop :=
  ∀ (cfg : Config) (v t : F32) (n : Word), cfg.legal = true → cfg.delta = .correctlyRounded →
    cfg.inRange v = true → cfg.inRange t = true → n ≠ 0#32 →
    let d := cfg.deltaFn v t n
    let scaled := units t * 2 ^ (150 * n.toNat)
    d.toNat ≤ 0x7F800000 ∧
    (0 < d.toNat → d.toNat < 0x7F800000 →
      (units (d - 1#32) + units d) ^ n.toNat * units v ≤ scaled ∧
      ((units (d - 1#32) + units d) ^ n.toNat * units v = scaled → d.toNat % 2 = 0)) ∧
    (d.toNat < 0x7F7FFFFF →
      scaled ≤ (units d + units (d + 1#32)) ^ n.toNat * units v ∧
      (scaled = (units d + units (d + 1#32)) ^ n.toNat * units v → d.toNat % 2 = 0)) ∧
    (d.toNat = 0x7F800000 ↔ (2 * units 0x7F7FFFFF#32) ^ n.toNat * units v < scaled)

/-- R63: with the spec's default range, the default DeltaFn gives a finite number of at least 2^-127 for N = 2 and a normal number
for N >= 3. -/
def Obligations.DefaultDeltaStaysNormal : Prop :=
  ∀ (v t : F32) (n : Word), Config.specDefault.inRange v = true → Config.specDefault.inRange t = true →
    (n = 2#32 → 0x00400000 ≤ (Config.specDefault.deltaFn v t n).toNat ∧
      (Config.specDefault.deltaFn v t n).toNat ≤ 0x7F7FFFFF) ∧
    (3 ≤ n.toNat → 0x00800000 ≤ (Config.specDefault.deltaFn v t n).toNat ∧
      (Config.specDefault.deltaFn v t n).toNat ≤ 0x7F7FFFFF)

/-- R64, R99: with N = 2^32 - 1 the default DeltaFn gives 1.0 for every rising ratio of the default range. -/
def Obligations.LongestRisingTransitionHasUnitDelta : Prop :=
  ∀ v t : F32, Config.specDefault.inRange v = true → Config.specDefault.inRange t = true → F32.le v t = true →
    Config.specDefault.deltaFn v t 0xFFFFFFFF#32 = 0x3F800000#32

/-- R55's corner case at the machine: in a good state, a STEP that multiplies (not the last of a transition under FINAL_SNAP, and
REMAINING not 0) makes V_MAX of VALUE where DELTA is +inf, and V_MIN where DELTA is +0; REMAINING counts down, DEGEN and the rest are
kept. (isZero holds of -0 too, a DELTA that an implementation's DeltaFn may give: notes/assumptions/16.md, and 5.md for the sign.) -/
def Obligations.InfiniteOrZeroDeltaIsClamped : Prop :=
  ∀ s : State, s.Good → s.regs.remaining ≠ 0#32 → ¬ (s.regs.remaining = 1#32 ∧ s.cfg.finalSnap = true) →
    (s.regs.delta = 0x7F800000#32 →
      exec .step s = .next { s with
        regs := { s.regs with remaining := s.regs.remaining - 1#32, value := s.cfg.vMax }
        response := some ⟨.sample, s.cfg.vMax⟩ }) ∧
    (isZero s.regs.delta = true →
      exec .step s = .next { s with
        regs := { s.regs with remaining := s.regs.remaining - 1#32, value := s.cfg.vMin }
        response := some ⟨.sample, s.cfg.vMin⟩ })

/-- The model's choice for what R9 leaves open of mul32 (notes/assumptions/5.md, 19.md): the sign of a product is the exclusive or
of the signs; with finite operands its magnitude is the product of the magnitudes (which ProductIsNearestEven states); with an
infinite operand, and no NaN and no zero, it is an infinity, as R55's corner case has it for +inf. -/
def Obligations.ProductSignAndInfinity : Prop :=
  ∀ a b : F32,
    (isFinite a = true → isFinite b = true →
      (signBit (mul32 a b) = (signBit a ^^ signBit b)) ∧
      mul32 a b &&& 0x7FFFFFFF#32 = mul32 (a &&& 0x7FFFFFFF#32) (b &&& 0x7FFFFFFF#32)) ∧
    (isNaN a = false → isNaN b = false → isZero a = false → isZero b = false →
      isInfinite a = true ∨ isInfinite b = true →
        mul32 a b = if signBit a ^^ signBit b then 0xFF800000#32 else 0x7F800000#32)

/-- R52: the raw form is the only way to write a chosen sign of zero. No decimal literal gives -0; one that rounds to zero gives +0
with either sign (that the one zero is +0 is DEDUCED, notes/assumptions/17.md); any other negative literal is the mirror image of its
magnitude (notes/assumptions/19.md). A raw pattern gives every word, -0 among them. -/
def Obligations.DecimalLiteralHasOneZero : Prop :=
  ∀ (negative : Bool) (digits : Nat) (exponent : Int),
    (F32Literal.decimal negative digits exponent).word ≠ 0x80000000#32 ∧
    (F32Literal.decimal negative 0 exponent).word = 0#32 ∧
    ((F32Literal.decimal false digits exponent).word = 0#32 →
      (F32Literal.decimal true digits exponent).word = 0#32) ∧
    ((F32Literal.decimal false digits exponent).word ≠ 0#32 →
      (F32Literal.decimal true digits exponent).word =
        (F32Literal.decimal false digits exponent).word ||| 0x80000000#32) ∧
    (F32Literal.bits 0x80000000#32).word = 0x80000000#32
end

