-- ==== Sys2Proof/Laws/Binary32.lean ====
section
/-! SUPPORT. What the functions of Machine/Binary32.lean compute: one lemma each, which proofs cite instead of unfolding them. -/

namespace Sys2Proof

@[simp] theorem strict_eq {α : Type} (n : Nat) (f : Nat → α) : strict n f = f n := by
  cases n <;> rfl

theorem compareNat_eq_lt {a b : Nat} : compareNat a b = .lt ↔ a < b := by
  unfold compareNat; split
  · simp [*]
  · split <;> simp [*]

theorem compareNat_eq_eq {a b : Nat} : compareNat a b = .eq ↔ a = b := by
  unfold compareNat; split
  · simp; omega
  · split <;> simp [*]

theorem compareNat_eq_gt {a b : Nat} : compareNat a b = .gt ↔ b < a := by
  unfold compareNat; split
  · simp; omega
  · split
    · simp; omega
    · simp; omega

theorem compareNat_swap (a b : Nat) : (compareNat a b).swap = compareNat b a := by
  rcases Nat.lt_trichotomy a b with h | h | h
  · rw [compareNat_eq_lt.2 h, compareNat_eq_gt.2 h]; rfl
  · rw [compareNat_eq_eq.2 h, compareNat_eq_eq.2 h.symm]; rfl
  · rw [compareNat_eq_gt.2 h, compareNat_eq_lt.2 h]; rfl

/-- A common positive factor changes no comparison. -/
theorem compareNat_mul_right (a b : Nat) {c : Nat} (hc : 0 < c) :
    compareNat (a * c) (b * c) = compareNat a b := by
  simp only [compareNat, Nat.mul_lt_mul_right hc, Nat.mul_left_inj (Nat.ne_of_gt hc)]

theorem compareShifted_eq (a b d : Nat) : compareShifted a b d = compareNat a (b * 2 ^ d) := by
  have hd : 0 < 2 ^ d := by positivity
  simp only [compareShifted, strict_eq, Nat.shiftRight_eq_div_pow, Nat.shiftLeft_eq]
  split
  · next h => exact (compareNat_eq_lt.2 ((Nat.div_lt_iff_lt_mul hd).1 h)).symm
  · split
    · next h =>
      have h' : (b + 1) * 2 ^ d ≤ a := (Nat.le_div_iff_mul_le hd).1 h
      exact (compareNat_eq_gt.2 (by rw [Nat.add_mul] at h'; omega)).symm
    · rfl

/-- `compareDyadic` compares a · 2^x with b · 2^y. -/
theorem compareDyadic_eq (a x b y : Nat) :
    compareDyadic a x b y = compareNat (a * 2 ^ x) (b * 2 ^ y) := by
  have key : ∀ a x b y, x ≤ y → compareShifted a b (y - x) = compareNat (a * 2 ^ x) (b * 2 ^ y) := by
    intro a x b y h
    have hy : b * 2 ^ y = b * 2 ^ (y - x) * 2 ^ x := by
      rw [Nat.mul_assoc, ← Nat.pow_add, Nat.sub_add_cancel h]
    rw [compareShifted_eq, hy, compareNat_mul_right _ _ (by positivity)]
  unfold compareDyadic
  split
  · next h => exact key a x b y h
  · next h => rw [key b y a x (by omega), compareNat_swap]

/-- `searchBits` finds a number that `ok` holds of and whose successor it does not hold of. -/
theorem searchBits_spec (ok : Nat → Bool) (bits w : Nat) :
    ok w = true → ok (w + 2 ^ bits) = false →
      ok (searchBits ok bits w) = true ∧ ok (searchBits ok bits w + 1) = false ∧
        w ≤ searchBits ok bits w ∧ searchBits ok bits w < w + 2 ^ bits := by
  induction bits generalizing w with
  | zero => intro h h'; simpa [searchBits] using ⟨h, h'⟩
  | succ b ih =>
    intro h h'
    have hp : 2 ^ (b + 1) = 2 ^ b + 2 ^ b := by omega
    simp only [searchBits, strict_eq, Nat.shiftLeft_eq, Nat.one_mul]
    split
    · next hu =>
      obtain ⟨h1, h2, h3, h4⟩ := ih (w + 2 ^ b) hu (by rwa [Nat.add_assoc, ← hp])
      exact ⟨h1, h2, by omega, by omega⟩
    · next hu =>
      obtain ⟨h1, h2, h3, h4⟩ := ih w h (by simpa using hu)
      exact ⟨h1, h2, h3, by omega⟩

/-! ## The enclosure of a power -/

/-- x lies between lo · 2^s and hi · 2^s. -/
def Enclosure.Holds (e : Enclosure) (x : Nat) : Prop := e.lo * 2 ^ e.s ≤ x ∧ x ≤ e.hi * 2 ^ e.s

@[simp] theorem enclose_eq (lo hi s : Nat) : enclose lo hi s = ⟨lo, hi, s⟩ := by
  simp [enclose]

theorem Enclosure.shrink_holds {e : Enclosure} {x : Nat} (h : e.Holds x) : e.shrink.Holds x := by
  obtain ⟨lo, hi, s⟩ := e
  simp only [Enclosure.shrink, enclose_eq]
  split
  · exact h
  · obtain ⟨h1, h2⟩ := h
    simp only [Enclosure.Holds, Nat.shiftRight_eq_div_pow, Nat.pow_add, Nat.mul_comm (2 ^ s)] at *
    constructor
    · refine le_trans ?_ h1
      rw [← Nat.mul_assoc]
      exact Nat.mul_le_mul_right _ (Nat.div_mul_le_self _ _)
    · refine le_trans h2 ?_
      rw [← Nat.mul_assoc]
      exact Nat.mul_le_mul_right _ (Nat.le_of_lt (Nat.lt_mul_of_div_lt (Nat.lt_succ_self _) (by positivity)))

theorem Enclosure.square_holds {e : Enclosure} {x : Nat} (h : e.Holds x) : e.square.Holds (x * x) := by
  obtain ⟨lo, hi, s⟩ := e
  obtain ⟨h1, h2⟩ := h
  simp only [Enclosure.square, enclose_eq, Enclosure.Holds, Nat.two_mul, Nat.pow_add] at *
  exact ⟨by simpa only [Nat.mul_mul_mul_comm] using Nat.mul_le_mul h1 h1,
    by simpa only [Nat.mul_mul_mul_comm] using Nat.mul_le_mul h2 h2⟩

theorem Enclosure.times_holds {e : Enclosure} {x : Nat} (m : Nat) (h : e.Holds x) : (e.times m).Holds (x * m) := by
  obtain ⟨lo, hi, s⟩ := e
  obtain ⟨h1, h2⟩ := h
  simp only [Enclosure.times, enclose_eq, Enclosure.Holds, Nat.mul_right_comm _ m] at *
  exact ⟨Nat.mul_le_mul_right _ h1, Nat.mul_le_mul_right _ h2⟩

theorem powerEnclosure_holds (m bits n : Nat) : n < 2 ^ bits → (powerEnclosure m bits n).Holds (m ^ n) := by
  induction bits generalizing n with
  | zero =>
    intro h
    obtain rfl : n = 0 := by omega
    simp [powerEnclosure, Enclosure.Holds]
  | succ b ih =>
    intro h
    have hsq := Enclosure.square_holds (ih (n / 2) (by omega))
    rw [← Nat.pow_add] at hsq
    have hs := Enclosure.shrink_holds (Enclosure.shrink_holds (Enclosure.shrink_holds
      (Enclosure.shrink_holds (Enclosure.shrink_holds hsq))))
    unfold powerEnclosure
    split
    · next h0 => subst h0; simp [Enclosure.Holds]
    · split
      · have hn : n / 2 + n / 2 + 1 = n := by omega
        have ht := Enclosure.shrink_holds (Enclosure.times_holds m hs)
        rwa [← Nat.pow_succ, Nat.succ_eq_add_one, hn] at ht
      · have hn : n / 2 + n / 2 = n := by omega
        rwa [hn] at hs

/-- The comparison by an enclosure is the exact one. -/
theorem rootCut_eq_exact (v t : F32) (n : Nat) (hn : n < 2 ^ 32) (m e : Nat) :
    rootCut v t n m e = rootCutExact v t n m e := by
  obtain ⟨hlo, hhi⟩ := powerEnclosure_holds m 32 n hn
  have shape : ∀ a : Nat, significand (magnitudeBits v) * a * 2 ^ ((powerEnclosure m 32 n).s + scale (magnitudeBits v) + e * n)
      = significand (magnitudeBits v) * 2 ^ scale (magnitudeBits v) * 2 ^ (e * n)
        * (a * 2 ^ (powerEnclosure m 32 n).s) := by
    intro a; rw [Nat.pow_add, Nat.pow_add]; ring
  have exactShape : significand (magnitudeBits v) * m ^ n * 2 ^ (scale (magnitudeBits v) + e * n)
      = significand (magnitudeBits v) * 2 ^ scale (magnitudeBits v) * 2 ^ (e * n) * m ^ n := by
    rw [Nat.pow_add]; ring
  simp only [rootCut]
  split
  · next h =>
    rw [compareDyadic_eq, compareNat_eq_lt, shape] at h
    refine Eq.symm ?_
    rw [rootCutExact, compareDyadic_eq, Nat.pow_eq, compareNat_eq_gt, exactShape]
    exact lt_of_le_of_lt (Nat.mul_le_mul_left _ hhi) h
  · split
    · next h =>
      rw [compareDyadic_eq, compareNat_eq_lt, shape] at h
      refine Eq.symm ?_
      rw [rootCutExact, compareDyadic_eq, Nat.pow_eq, compareNat_eq_lt, exactShape]
      exact lt_of_lt_of_le h (Nat.mul_le_mul_left _ hlo)
    · rfl

/-- The default DeltaFn rounds the exact root. -/
theorem rootDelta_eq (v t : F32) (n : Word) : rootDelta v t n = rne32 (rootCutExact v t n.toNat) := by
  have h : rootCut v t n.toNat = rootCutExact v t n.toNat := by
    funext m e; exact rootCut_eq_exact v t n.toNat n.isLt m e
  rw [rootDelta, h]

end Sys2Proof
end

