-- ==== Sys2Proof/Laws/Decode.lean ====
section
/-! SUPPORT. The fields of a command word, and what decoding depends on. -/

namespace Sys2Proof

theorem commandWord_getLsbD (op : Opcode) (operand : Word) (i : Nat) :
    (commandWord op operand).getLsbD i = if i < 32 then operand.getLsbD i else op.getLsbD (i - 32) :=
  BitVec.getLsbD_append

@[simp] theorem opField_commandWord (op : Opcode) (operand : Word) : opField (commandWord op operand) = op := by
  apply BitVec.eq_of_getLsbD_eq
  intro i hi
  simp [opField, commandWord_getLsbD, hi]

@[simp] theorem operandField_commandWord (op : Opcode) (operand : Word) :
    operandField (commandWord op operand) = operand := by
  apply BitVec.eq_of_getLsbD_eq
  intro i hi
  simp [operandField, commandWord_getLsbD, hi]

/-- A command word is its two fields. -/
theorem commandWord_fields (w : CommandWord) : commandWord (opField w) (operandField w) = w := by
  apply BitVec.eq_of_getLsbD_eq
  intro i hi
  rw [commandWord_getLsbD]
  split
  · next h => simp [operandField, h]
  · next h =>
    have h1 : i - 32 < 8 := by omega
    have h2 : 32 + (i - 32) = i := by omega
    simp [opField, h1, h2]

theorem decode_commandWord (p : Port) (op : Opcode) (operand : Word) :
    decode ⟨p, commandWord op operand⟩ =
      if accepts p op then namedCommand p op operand else .reserved p op := by
  simp [decode]

@[simp] theorem encode_port (i : Instr) : (encode i).port = i.port := rfl
@[simp] theorem encode_word (i : Instr) : (encode i).word = commandWord i.opcode i.operand := rfl

end Sys2Proof
end

