-- ==== Sys2Proof/Laws/PerInstr.lean ====
section
/-! SUPPORT. Statements made per instruction. OpField: the two fields of an instruction's command word are its opcode and its
operand (spec/30_encoding.md R43). -/

namespace Sys2Proof.Laws.OpField

def Statement (i : Instr) : Prop :=
  opField (encode i).word = i.opcode ∧ operandField (encode i).word = i.operand

theorem step : Statement .step := by simp [Statement]
theorem setTarget (t : F32) : Statement (.setTarget t) := by simp [Statement]
theorem setDuration (n : Word) : Statement (.setDuration n) := by simp [Statement]
theorem init (v : F32) : Statement (.init v) := by simp [Statement]
theorem readValue (p : Port) : Statement (.readValue p) := by simp [Statement]
theorem readTarget (p : Port) : Statement (.readTarget p) := by simp [Statement]
theorem complete (p : Port) : Statement (.complete p) := by simp [Statement]
theorem readStatus (p : Port) : Statement (.readStatus p) := by simp [Statement]
theorem readRemaining : Statement .readRemaining := by simp [Statement]
theorem readDuration : Statement .readDuration := by simp [Statement]
theorem readDelta : Statement .readDelta := by simp [Statement]
theorem reserved (p : Port) (op : Opcode) : Statement (.reserved p op) := by simp [Statement]

end Sys2Proof.Laws.OpField
end

