-- ==== Sys2Proof/Laws/State.lean ====
section
/-! SUPPORT. One lemma per field per update of the state, each true by unfolding the update. -/

namespace Sys2Proof.Machine

variable (s : State) (p : Port) (r : Regs) (w : Word) (cfg : Config)

/-! ## reply and answer -/

@[simp] theorem State.reply_regs : (s.reply p r w).regs = r := rfl
@[simp] theorem State.reply_cfg : (s.reply p r w).cfg = s.cfg := rfl
@[simp] theorem State.reply_response : (s.reply p r w).response = some ⟨p, w⟩ := rfl
@[simp] theorem State.reply_inputs : (s.reply p r w).inputs = s.inputs := rfl
@[simp] theorem State.reply_resetLine : (s.reply p r w).resetLine = s.resetLine := rfl
@[simp] theorem State.reply_ties : (s.reply p r w).ties = s.ties := rfl

@[simp] theorem State.answer_regs : (s.answer p w).regs = s.regs := rfl
@[simp] theorem State.answer_cfg : (s.answer p w).cfg = s.cfg := rfl
@[simp] theorem State.answer_response : (s.answer p w).response = some ⟨p, w⟩ := rfl
@[simp] theorem State.answer_inputs : (s.answer p w).inputs = s.inputs := rfl
@[simp] theorem State.answer_resetLine : (s.answer p w).resetLine = s.resetLine := rfl
@[simp] theorem State.answer_ties : (s.answer p w).ties = s.ties := rfl

/-! ## reset -/

@[simp] theorem Regs.afterReset_value : (Regs.afterReset cfg).value = cfg.resetValue := rfl
@[simp] theorem Regs.afterReset_target : (Regs.afterReset cfg).target = cfg.resetValue := rfl
@[simp] theorem Regs.afterReset_delta : (Regs.afterReset cfg).delta = one := rfl
@[simp] theorem Regs.afterReset_remaining : (Regs.afterReset cfg).remaining = 0#32 := rfl
@[simp] theorem Regs.afterReset_duration : (Regs.afterReset cfg).duration = cfg.resetDuration := rfl
@[simp] theorem Regs.afterReset_degen : (Regs.afterReset cfg).degen = false := rfl

@[simp] theorem State.assertReset_regs : s.assertReset.regs = Regs.afterReset s.cfg := rfl
@[simp] theorem State.assertReset_cfg : s.assertReset.cfg = s.cfg := rfl
@[simp] theorem State.assertReset_response : s.assertReset.response = none := rfl
@[simp] theorem State.assertReset_inputs : s.assertReset.inputs = s.inputs := rfl
@[simp] theorem State.assertReset_resetLine : s.assertReset.resetLine = true := rfl
@[simp] theorem State.assertReset_ties : s.assertReset.ties = s.ties := rfl

@[simp] theorem State.releaseReset_regs : s.releaseReset.regs = s.regs := rfl
@[simp] theorem State.releaseReset_cfg : s.releaseReset.cfg = s.cfg := rfl
@[simp] theorem State.releaseReset_response : s.releaseReset.response = s.response := rfl
@[simp] theorem State.releaseReset_inputs : s.releaseReset.inputs = s.inputs := rfl
@[simp] theorem State.releaseReset_resetLine : s.releaseReset.resetLine = false := rfl
@[simp] theorem State.releaseReset_ties : s.releaseReset.ties = s.ties := rfl

@[simp] theorem State.ignoreCommand_regs : s.ignoreCommand.regs = s.regs := rfl
@[simp] theorem State.ignoreCommand_cfg : s.ignoreCommand.cfg = s.cfg := rfl
@[simp] theorem State.ignoreCommand_response : s.ignoreCommand.response = none := rfl
@[simp] theorem State.ignoreCommand_inputs : s.ignoreCommand.inputs = s.inputs := rfl
@[simp] theorem State.ignoreCommand_resetLine : s.ignoreCommand.resetLine = s.resetLine := rfl
@[simp] theorem State.ignoreCommand_ties : s.ignoreCommand.ties = s.ties := rfl

/-! ## register updates -/

variable (b : Bool) (x : F32)

@[simp] theorem Regs.recordDegenerate_value : (r.recordDegenerate b).value = r.value := rfl
@[simp] theorem Regs.recordDegenerate_target : (r.recordDegenerate b).target = r.target := rfl
@[simp] theorem Regs.recordDegenerate_delta : (r.recordDegenerate b).delta = r.delta := rfl
@[simp] theorem Regs.recordDegenerate_remaining : (r.recordDegenerate b).remaining = r.remaining := rfl
@[simp] theorem Regs.recordDegenerate_duration : (r.recordDegenerate b).duration = r.duration := rfl
@[simp] theorem Regs.recordDegenerate_degen : (r.recordDegenerate b).degen = (r.degen || b) := rfl

@[simp] theorem Regs.startAt_value : (r.startAt x).value = x := rfl
@[simp] theorem Regs.startAt_target : (r.startAt x).target = x := rfl
@[simp] theorem Regs.startAt_delta : (r.startAt x).delta = one := rfl
@[simp] theorem Regs.startAt_remaining : (r.startAt x).remaining = 0#32 := rfl
@[simp] theorem Regs.startAt_duration : (r.startAt x).duration = r.duration := rfl
@[simp] theorem Regs.startAt_degen : (r.startAt x).degen = r.degen := rfl

@[simp] theorem Regs.retarget_target : (r.retarget cfg x).target = x := by
  unfold Regs.retarget; split <;> rfl
@[simp] theorem Regs.retarget_remaining : (r.retarget cfg x).remaining = r.duration := by
  unfold Regs.retarget; split
  · next h => exact h.symm
  · rfl
@[simp] theorem Regs.retarget_duration : (r.retarget cfg x).duration = r.duration := by
  unfold Regs.retarget; split <;> rfl
@[simp] theorem Regs.retarget_degen : (r.retarget cfg x).degen = r.degen := by
  unfold Regs.retarget; split <;> rfl

@[simp] theorem Regs.advance_target : (r.advance cfg).target = r.target := by
  unfold Regs.advance; split <;> try split
  all_goals rfl
@[simp] theorem Regs.advance_delta : (r.advance cfg).delta = r.delta := by
  unfold Regs.advance; split <;> try split
  all_goals rfl
@[simp] theorem Regs.advance_duration : (r.advance cfg).duration = r.duration := by
  unfold Regs.advance; split <;> try split
  all_goals rfl
@[simp] theorem Regs.advance_degen : (r.advance cfg).degen = r.degen := by
  unfold Regs.advance; split <;> try split
  all_goals rfl

end Sys2Proof.Machine
end

