-- ==== Sys2Proof/Laws/Step.lean ====
section
/-! SUPPORT. What the shared operations around `exec` can do, said once each. -/

namespace Sys2Proof.Machine

/-- A command at the ports: ignored while reset is asserted, else run. -/
theorem acceptCommand_cases (c : Command) (s : State) :
    (s.resetLine = true ∧ acceptCommand c s = .next s.ignoreCommand) ∨
      (s.resetLine = false ∧ acceptCommand c s = exec (decode c) s) := by
  unfold acceptCommand
  cases s.resetLine <;> simp

/-- Two commands together: one goes to its port now, the other is the next input. -/
theorem acceptTogether_cases (onControl onSample : CommandWord) (s : State) :
    acceptTogether onControl onSample s = acceptCommand ⟨.control, onControl⟩
        { s with ties := s.ties + 1, inputs := .command ⟨.sample, onSample⟩ :: s.inputs } ∨
      acceptTogether onControl onSample s = acceptCommand ⟨.sample, onSample⟩
        { s with ties := s.ties + 1, inputs := .command ⟨.control, onControl⟩ :: s.inputs } := by
  unfold acceptTogether
  split
  · exact .inl rfl
  · exact .inr rfl

/-- What a step that answers a next state has done: the configuration is legal, and either nothing was on its way or the first
input was taken. -/
theorem step_cases {s t : State} (h : step s = .next t) :
    s.cfg.legal = true ∧
      ((s.inputs = [] ∧ t = s) ∨
        ∃ i rest, s.inputs = i :: rest ∧ acceptInput i { s with inputs := rest } = .next t) := by
  unfold step takeNext at h
  split at h
  · next hl =>
    refine ⟨hl, ?_⟩
    split at h
    · next hi => exact .inl ⟨hi, by simpa using h.symm⟩
    · next i rest hi => exact .inr ⟨i, rest, hi, h⟩
  · cases h

@[simp] theorem step_nil (s : State) (hl : s.cfg.legal = true) (hi : s.inputs = []) : step s = .next s := by
  simp [step, takeNext, hl, hi]

theorem step_cons (s : State) (i : Input) (rest : List Input) (hl : s.cfg.legal = true) (hi : s.inputs = i :: rest) :
    step s = acceptInput i { s with inputs := rest } := by
  simp [step, takeNext, hl, hi]

/-- Running one command more at the front. -/
theorem runCommands_cons {i : Instr} {rest : List Instr} {s t : State} (h : exec i s = .next t) :
    runCommands (i :: rest) s = runCommands rest t := by
  simp [runCommands, h]

@[simp] theorem runCommands_nil (s : State) : runCommands [] s = s := rfl

end Sys2Proof.Machine
end

