-- ==== Sys2Proof/Tests/Slice0.lean ====
section
/-! SUPPORT. The model's own tests: the check of WellFormed, words written out from the spec's encoding, vectors of
spec/95_test_vectors.md (each test names its vector), and, for every obligation with hypotheses, a state and operands that meet them
(test_meets_…). -/

-- One theorem after another: many evaluations at once each reserve a thread's stack.
set_option Elab.async false

namespace Sys2Proof.Tests

open Sys2Proof.Machine

/-- The registers, with the spec's default configuration. -/
def blockWith (value target delta remaining duration : Word) (degen : Bool) : State :=
  { State.reset with regs := ⟨value, target, delta, remaining, duration, degen⟩ }

/-- The instruction answers a next state of which the test holds. -/
def runs (i : Instr) (s : State) (test : State → Bool) : Bool :=
  match exec i s with
  | .next t => test t
  | .fault _ => false
  | .refused _ => false

/-- One step answers a next state of which the test holds. -/
def steps (s : State) (test : State → Bool) : Bool :=
  match step s with
  | .next t => test t
  | .fault _ => false
  | .refused _ => false

/-! ## WellFormed: RESERVED is no verdict on a command its port accepts (R49, R50) -/

theorem test_wellFormed_refuses_reserved_step : (Instr.reserved .sample 0x01#8).wellFormed = false := by decide
theorem test_wellFormed_refuses_reserved_read : (Instr.reserved .control 0x0B#8).wellFormed = false := by decide
theorem test_wellFormed_refuses_reserved_first_control : (Instr.reserved .control 0x02#8).wellFormed = false := by decide
theorem test_wellFormed_takes_wrong_port : (Instr.reserved .control 0x01#8).wellFormed = true := by decide
theorem test_wellFormed_takes_unused : (Instr.reserved .sample 0x0C#8).wellFormed = true := by decide

/-! ## Decoding: words from R46 and spec/95_test_vectors.md -/

theorem test_decode_step : decode ⟨.sample, 0x0100000000#40⟩ = .step := by decide
theorem test_decode_step_operand : decode ⟨.sample, 0x01FFFFFFFF#40⟩ = .step := by decide -- V-S9
theorem test_decode_setTarget : decode ⟨.control, 0x0240000000#40⟩ = .setTarget 0x40000000#32 := by decide -- V-W1
theorem test_decode_setDuration : decode ⟨.control, 0x030000BB80#40⟩ = .setDuration 48000#32 := by decide -- V-R6
theorem test_decode_init : decode ⟨.control, 0x0442F00000#40⟩ = .init 0x42F00000#32 := by decide -- V-W14
theorem test_decode_readValue : decode ⟨.sample, 0x0500000000#40⟩ = .readValue .sample := by decide
theorem test_decode_readTarget : decode ⟨.control, 0x0600000000#40⟩ = .readTarget .control := by decide
theorem test_decode_complete : decode ⟨.sample, 0x0700000000#40⟩ = .complete .sample := by decide
theorem test_decode_readStatus : decode ⟨.control, 0x0800000000#40⟩ = .readStatus .control := by decide
theorem test_decode_readRemaining : decode ⟨.control, 0x0900000000#40⟩ = .readRemaining := by decide
theorem test_decode_readDuration : decode ⟨.control, 0x0A00000000#40⟩ = .readDuration := by decide
theorem test_decode_readDelta : decode ⟨.control, 0x0B00000000#40⟩ = .readDelta := by decide
theorem test_decode_reserved : decode ⟨.control, 0x0012345678#40⟩ = .reserved .control 0x00#8 := by decide -- V-X1
theorem test_decode_reserved_high : decode ⟨.sample, 0xFFFFFFFFFF#40⟩ = .reserved .sample 0xFF#8 := by decide -- V-X2
theorem test_decode_step_on_control : decode ⟨.control, 0x0100000000#40⟩ = .reserved .control 0x01#8 := by decide -- V-X3
theorem test_decode_writes_on_sample : decode ⟨.sample, 0x0240000000#40⟩ = .reserved .sample 0x02#8 := by decide -- V-X4
theorem test_decode_delta_on_sample : decode ⟨.sample, 0x0B00000000#40⟩ = .reserved .sample 0x0B#8 := by decide -- V-X5
theorem test_decodeTableWord_step : decodeTableWord 40 0x0100000000 = some .step := by decide
theorem test_decodeTableWord_reserved : decodeTableWord 40 0x8000000000 = some (.reserved .control 0x80#8) := by decide
theorem test_decodeTableWord_too_long : decodeTableWord 48 0x010000000000 = none := by decide
theorem test_encode_init : (encode (.init 0x40400000#32)).word = 0x0440400000#40 := by decide -- V-W13

/-! ## One command -/

-- The worked example of R55.
theorem test_step_product :
    runs .step (blockWith 0x3F800000#32 0x40000000#32 0x3FB504F3#32 2#32 2#32 false) (fun t =>
      t.response == some ⟨.sample, 0x3FB504F3#32⟩ && t.regs.remaining == 1#32) = true := by decide
-- V-S5: the last step snaps, whatever the product.
theorem test_step_snap :
    runs .step (blockWith 0x3FFFFFFF#32 0x7F7FFFFF#32 0x7EFFFFFF#32 1#32 2#32 false) (fun t =>
      t.response == some ⟨.sample, 0x7F7FFFFF#32⟩ && t.regs.remaining == 0#32) = true := by decide
-- V-W1.
theorem test_setTarget_four_samples :
    runs (.setTarget 0x40000000#32) (blockWith 0x3F800000#32 0x3F800000#32 0x3F800000#32 0#32 4#32 false) (fun t =>
      t.regs == ⟨0x3F800000#32, 0x40000000#32, 0x3F9837F0#32, 4#32, 4#32, false⟩) = true := by decide +kernel
-- V-W3.
theorem test_setTarget_degenerate :
    runs (.setTarget 0x00000000#32) (blockWith 0x3F800000#32 0x3F800000#32 0x3F800000#32 0#32 2#32 false) (fun t =>
      t.regs == ⟨0x3F800000#32, 0x00800000#32, 0x20000000#32, 2#32, 2#32, true⟩) = true := by decide +kernel
-- V-W10.
theorem test_setDuration_keeps_transition :
    runs (.setDuration 8#32) (blockWith 0x40000000#32 0x40800000#32 0x40000000#32 1#32 2#32 false) (fun t =>
      t.regs == ⟨0x40000000#32, 0x40800000#32, 0x40000000#32, 1#32, 8#32, false⟩) = true := by decide
-- V-W13.
theorem test_init_cancels :
    runs (.init 0x40400000#32) (blockWith 0x40000000#32 0x40800000#32 0x40000000#32 1#32 2#32 false) (fun t =>
      t.regs == ⟨0x40400000#32, 0x40400000#32, 0x3F800000#32, 0#32, 2#32, false⟩) = true := by decide
-- V-W11.
theorem test_init_degenerate :
    runs (.init 0x00000000#32) State.reset (fun t =>
      t.regs == ⟨0x00800000#32, 0x00800000#32, 0x3F800000#32, 0#32, 0#32, true⟩) = true := by decide
-- V-R5.
theorem test_readValue :
    runs (.readValue .sample) (blockWith 0x3F9837F0#32 0x40000000#32 0x3F9837F0#32 3#32 4#32 false) (fun t =>
      t.response == some ⟨.sample, 0x3F9837F0#32⟩) = true := by decide
-- V-R9.
theorem test_readTarget :
    runs (.readTarget .control) (blockWith 0x3F800000#32 0x00800000#32 0x20000000#32 2#32 2#32 true) (fun t =>
      t.response == some ⟨.control, 0x00800000#32⟩) = true := by decide
-- V-R4.
theorem test_complete_running :
    runs (.complete .sample) (blockWith 0x3F800000#32 0x40000000#32 0x3F9837F0#32 4#32 4#32 false) (fun t =>
      t.response == some ⟨.sample, 0#32⟩) = true := by decide
-- V-R7.
theorem test_readStatus_degenerate :
    runs (.readStatus .control) (blockWith 0x00800000#32 0x00800000#32 0x3F800000#32 0#32 0#32 true) (fun t =>
      t.response == some ⟨.control, 3#32⟩) = true := by decide
-- V-R5.
theorem test_readRemaining :
    runs .readRemaining (blockWith 0x3F9837F0#32 0x40000000#32 0x3F9837F0#32 3#32 4#32 false) (fun t =>
      t.response == some ⟨.control, 3#32⟩) = true := by decide
-- V-R6.
theorem test_readDuration :
    runs .readDuration (blockWith 0x3F800000#32 0x40000000#32 0x3F800079#32 48000#32 48000#32 false) (fun t =>
      t.response == some ⟨.control, 0x0000BB80#32⟩) = true := by decide
-- V-R6.
theorem test_readDelta :
    runs .readDelta (blockWith 0x3F800000#32 0x40000000#32 0x3F800079#32 48000#32 48000#32 false) (fun t =>
      t.response == some ⟨.control, 0x3F800079#32⟩) = true := by decide
-- V-X1.
theorem test_reserved :
    runs (.reserved .control 0x00#8) (blockWith 0x3F800000#32 0x40000000#32 0x3F9837F0#32 4#32 4#32 false) (fun t =>
      t.response == some ⟨.control, 0#32⟩ && t.regs.remaining == 4#32) = true := by decide

/-! ## Arithmetic: spec/95_test_vectors.md -/

-- PROG1 line 5.
theorem test_mul32 : mul32 0x3F9837F0#32 0x3F9837F0#32 = 0x3FB504F2#32 := by decide
-- V-S6: a subnormal factor.
theorem test_mul32_subnormal : mul32 0x7F7FFFFF#32 0x00400000#32 = 0x3FFFFFFF#32 := by decide
-- V-S5.
theorem test_rootDelta_up : rootDelta 0x00800000#32 0x7F7FFFFF#32 2#32 = 0x7EFFFFFF#32 := by decide +kernel
-- V-S6.
theorem test_rootDelta_subnormal : rootDelta 0x7F7FFFFF#32 0x00800000#32 2#32 = 0x00400000#32 := by decide +kernel
-- V-S7, V-S8.
theorem test_rootDelta_overflow : rootDelta 0x00800000#32 0x7F7FFFFF#32 1#32 = 0x7F800000#32 := by decide +kernel
theorem test_rootDelta_underflow : rootDelta 0x7F7FFFFF#32 0x00800000#32 1#32 = 0x00000000#32 := by decide +kernel
-- V-R6.
theorem test_rootDelta_one_second : rootDelta 0x3F800000#32 0x40000000#32 48000#32 = 0x3F800079#32 := by decide +kernel
-- V-W12.
theorem test_rootDelta_longest_up : rootDelta 0x3F800000#32 0x40000000#32 0xFFFFFFFF#32 = 0x3F800000#32 := by decide +kernel
theorem test_rootDelta_longest_down : rootDelta 0x7F7FFFFF#32 0x00800000#32 0xFFFFFFFF#32 = 0x3F7FFFFF#32 := by
  decide +kernel

/-! ## Text: R52, R53 and the programs of spec/95_test_vectors.md -/

-- PROG4.
theorem test_text_init : assembleText "C: INIT 120.0        ; bpm" = some [⟨.control, 0x0442F00000#40⟩] := by decide +kernel
-- V-W4.
theorem test_text_negative : assembleText "SET_TARGET -1.0" = some [⟨.control, 0x02BF800000#40⟩] := by decide +kernel
-- V-W5.
theorem test_text_raw : assembleText "SET_TARGET #0x7FC00000" = some [⟨.control, 0x027FC00000#40⟩] := by decide +kernel
theorem test_text_step : assembleText "STEP" = some [⟨.sample, 0x0100000000#40⟩] := by decide +kernel
theorem test_text_glide :
    assembleText "GLIDE 2.0, 4" = some [⟨.control, 0x0300000004#40⟩, ⟨.control, 0x0240000000#40⟩] := by decide +kernel
theorem test_text_settled : assembleText "S: SETTLED" = some [⟨.sample, 0x0700000000#40⟩] := by decide +kernel
-- 1e-3 is 0x3A83126F: its nearest binary32, by hand.
theorem test_text_exponent : assembleText "JUMP 1e-3" = some [⟨.control, 0x043A83126F#40⟩] := by decide +kernel
-- R52: only the raw form writes a chosen sign of zero; -1e-60 rounds to zero, -1e-45 to the smallest subnormal, by hand.
theorem test_text_negative_to_zero : assembleText "INIT -1e-60" = some [⟨.control, 0x0400000000#40⟩] := by decide +kernel
theorem test_text_negative_subnormal : assembleText "INIT -1e-45" = some [⟨.control, 0x0480000001#40⟩] := by decide +kernel
theorem test_text_raw_negative_zero : assembleText "INIT #0x80000000" = some [⟨.control, 0x0480000000#40⟩] := by decide +kernel
theorem test_text_too_large : assembleText "SET_DURATION 0x100000000" = none := by decide +kernel

/-! ## Steps -/

theorem test_step_runs_first_command :
    steps (State.reset.withFetchWord 40 0x0440000000) (fun t =>
      t.regs.value == 0x40000000#32 && t.response == some ⟨.control, 0#32⟩ && t.inputs == []) = true := by decide
theorem test_step_runs_sample_command :
    steps (State.reset.withFetchWord 40 0x0100000000) (fun t => t.response == some ⟨.sample, 0x3F800000#32⟩) = true := by
  decide -- V-S1
theorem test_step_reset_line :
    steps { State.reset with inputs := [.command ⟨.control, 0x0440000000#40⟩], resetLine := true } (fun t =>
      t.regs.value == 0x3F800000#32 && t.response == none) = true := by decide

/-! ## Hypotheses that are met -/

/-- A running transition, REMAINING n. -/
def running (n : Word) : State := blockWith 0x3F800000#32 0x40000000#32 0x3FB504F3#32 n 2#32 false

theorem running_good : (running 2#32).Good :=
  ⟨by decide, ⟨by decide, by decide, by decide, by decide, by decide⟩⟩

theorem test_meets_StepAdvancesThenReturns :
    (running 0#32).regs.remaining = 0#32 ∧
    ((running 1#32).regs.remaining = 1#32 ∧ (running 1#32).cfg.finalSnap = true) ∧
    ((running 2#32).regs.remaining ≠ 0#32 ∧
      ¬ ((running 2#32).regs.remaining = 1#32 ∧ (running 2#32).cfg.finalSnap = true)) ∧
    ((running 0xFFFFFFFF#32).regs.remaining ≠ 0#32) := by decide
-- The third clause at REMAINING 1 as well, with FINAL_SNAP false.
theorem test_meets_StepAdvancesThenReturns_noSnap :
    ∃ s : State, s.regs.remaining = 1#32 ∧ ¬ (s.regs.remaining = 1#32 ∧ s.cfg.finalSnap = true) :=
  ⟨{ running 1#32 with cfg := { Config.specDefault with finalSnap := false } }, by decide⟩
theorem test_meets_SetTargetStartsTransition :
    State.reset.regs.duration = 0#32 ∧ (running 1#32).regs.duration ≠ 0#32 := by decide
theorem test_meets_ReservedCommandIsNoOp :
    (0x00#8 : Opcode).toNat = 0x00 ∧ 0x0C ≤ (0x0C#8 : Opcode).toNat ∧ 0x0C ≤ (0xFF#8 : Opcode).toNat ∧
      accepts .control 0x01#8 = false := by decide
theorem test_meets_DecodeEncodeRoundTrip :
    (Instr.setTarget 0xFFFFFFFF#32).wellFormed = true ∧ (Instr.reserved .sample 0x0B#8).wellFormed = true := by decide
theorem test_meets_EncodeDecodeKeepsCommand :
    opField 0x02FFFFFFFF#40 ∈ [0x02#8, 0x03#8, 0x04#8] ∧ opField 0x0400000000#40 ∈ [0x02#8, 0x03#8, 0x04#8] := by decide
theorem test_meets_IgnoredOperandHasNoEffect :
    (0x01#8 : Opcode) ∉ [0x02#8, 0x03#8, 0x04#8] ∧ (0x05#8 : Opcode) ∉ [0x02#8, 0x03#8, 0x04#8] := by decide
theorem test_meets_BytesAreLittleEndian : (0 : Nat) < 4 ∧ (3 : Nat) < 4 := by decide
theorem test_meets_StepRunsDecodedCommand :
    State.reset.cfg.legal = true ∧
      (State.reset.withFetchWord 40 0x0440000000).inputs = .command ⟨.control, 0x0440000000#40⟩ :: [] ∧
      (State.reset.withFetchWord 40 0x0440000000).resetLine = false ∧
      decode ⟨.control, 0x0440000000#40⟩ = .init 0x40000000#32 := by decide
theorem test_meets_IdleBlockKeepsState : State.reset.cfg.legal = true ∧ State.reset.inputs = [] := by decide
theorem test_meets_ResetWritesEveryRegister :
    ∃ s : State, s.cfg.legal = true ∧ s.inputs = .resetAssert :: [] :=
  ⟨{ running 1#32 with inputs := [.resetAssert] }, by decide⟩
theorem test_meets_ResetLineBlocksCommands :
    ∃ s : State, s.cfg.legal = true ∧ s.resetLine = true ∧ s.inputs = .command ⟨.sample, 0x0100000000#40⟩ :: [.resetRelease] :=
  ⟨{ running 1#32 with resetLine := true, inputs := [.command ⟨.sample, 0x0100000000#40⟩, .resetRelease] }, by decide⟩
theorem test_meets_ResetLineBlocksCommands_release :
    ∃ s : State, s.cfg.legal = true ∧ s.resetLine = true ∧ s.inputs = .resetRelease :: [] :=
  ⟨{ running 1#32 with resetLine := true, inputs := [.resetRelease] }, by decide⟩
theorem test_meets_ResetLineBlocksCommands_together :
    ∃ s : State, s.cfg.legal = true ∧ s.resetLine = true ∧ s.inputs = .together 0x0440000000#40 0x0100000000#40 :: [] :=
  ⟨{ running 1#32 with resetLine := true, inputs := [.together 0x0440000000#40 0x0100000000#40] }, by decide⟩
-- The start of V-I1.
theorem test_meets_TogetherRunsInOneOrder :
    ∃ s : State, s.cfg.legal = true ∧ s.inputs = .together 0x023F800000#40 0x0100000000#40 :: [] ∧ s.resetLine = false :=
  ⟨{ running 1#32 with inputs := [.together 0x023F800000#40 0x0100000000#40] }, by decide⟩
theorem test_meets_StepStopsOnlyOnIllegalConfiguration :
    Config.specDefault.legal = true ∧ (Config.legal { Config.specDefault with vMin := 0#32 }) = false ∧
      (Config.legal { Config.specDefault with vMax := 0x7F800000#32 }) = false ∧
      (Config.legal { Config.specDefault with resetValue := 0x00000001#32 }) = false := by decide
theorem test_meets_StepKeepsGood : (running 2#32).Good ∧ step (running 2#32) = .next (running 2#32) :=
  ⟨running_good, rfl⟩
theorem test_meets_ResetStateIsGood :
    Config.legal ⟨0x00000001#32, 0x00000001#32, 0x00000001#32, 0xFFFFFFFF#32, true, .implementation 0⟩ = true := by decide
theorem test_meets_EveryRunIsSafe : (running 2#32).Good := running_good
theorem test_meets_GoodValuesAreFinitePositive :
    (running 2#32).Good ∧ (0x3F800000#32 = (running 2#32).regs.value ∨ 0x3F800000#32 = (running 2#32).regs.target) :=
  ⟨running_good, .inl rfl⟩
theorem test_meets_SettledStepChangesNothing :
    State.reset.Good ∧ State.reset.cfg.finalSnap = true ∧ State.reset.regs.remaining = 0#32 :=
  ⟨⟨by decide, ⟨by decide, by decide, by decide, by decide, by decide⟩⟩, by decide, by decide⟩
theorem test_meets_RepeatedCommandChangesNothing : Instr.step = .step ∧ (running 0#32).regs.remaining = 0#32 := by decide
theorem test_meets_SamplePortOnlyWritesByStep :
    opField 0x0500000000#40 ≠ 0x01#8 ∧ opField 0x0000000000#40 ≠ 0x01#8 ∧ opField 0x02FFFFFFFF#40 ≠ 0x01#8 := by decide
theorem test_meets_SampleReadsIgnorePrivateRegisters :
    ∃ s s' : State, opField 0x0800000000#40 ≠ 0x01#8 ∧ s.regs.value = s'.regs.value ∧ s.regs.target = s'.regs.target ∧
      s.regs.degen = s'.regs.degen ∧ (s.regs.remaining = 0#32 ↔ s'.regs.remaining = 0#32) ∧
      s.regs.delta ≠ s'.regs.delta ∧ s.regs.duration ≠ s'.regs.duration ∧ s.regs.remaining ≠ s'.regs.remaining :=
  ⟨running 2#32, blockWith 0x3F800000#32 0x40000000#32 0x3F800079#32 48000#32 48000#32 false, by decide⟩
theorem test_meets_TransitionClosedForm :
    (running 2#32).cfg.finalSnap = true ∧ 1 ≤ 1 ∧ 1 < (running 2#32).regs.remaining.toNat ∧
      (running 1#32).regs.remaining.toNat ≤ 1 ∧ (running 0#32).regs.remaining.toNat ≤ 1 := by decide
theorem test_meets_DurationManyStepsReachTwo :
    State.reset.cfg.finalSnap = true ∧ State.reset.cfg.inRange 0x40000000#32 = true := by decide
theorem test_meets_FrequentTargetsStarveSettling :
    (running 2#32).regs.duration ≠ 0#32 ∧ [(0x3F800000#32, 1), ((0x40000000#32 : F32), 0)] ≠ [] ∧
      ∀ b ∈ [(0x3F800000#32, 1), ((0x40000000#32 : F32), 0)], b.2 < (running 2#32).regs.duration.toNat := by decide
theorem test_meets_SanitizeByBitPattern :
    (0x00800000 ≤ (0x00800000#32).toNat ∧ (0x7F7FFFFF#32).toNat ≤ 0x7F7FFFFF) ∧ (0x7F800000#32).toNat = 0x7F800000 ∧
      ¬ (0x00800000 ≤ (0x007FFFFF#32).toNat) := by decide
theorem test_meets_SanitizeGivesLegalValue :
    Config.specDefault.legal = true ∧ Config.specDefault.inRange 0x00800000#32 = true ∧
      Config.specDefault.inRange 0x7F7FFFFF#32 = true ∧ Config.specDefault.inRange 0x007FFFFF#32 = false ∧
      Config.specDefault.inRange 0x7FC00000#32 = false := by decide
theorem test_meets_ClampGivesLegalValue :
    Config.specDefault.legal = true ∧ isNaN 0x7F800000#32 = false ∧ isNaN 0x80000000#32 = false ∧
      Config.specDefault.inRange 0x3F800000#32 = true ∧ F32.lt 0x007FFFFF#32 Config.specDefault.vMin = true ∧
      F32.lt 0x80000000#32 Config.specDefault.vMin = true ∧ F32.lt Config.specDefault.vMax 0x7F800000#32 = true := by decide
theorem test_meets_ProductIsNearestEven :
    (isFinite 0x3F800000#32 = true ∧ signBit 0x3F800000#32 = false ∧
      units 0x3F800000#32 * units 0x3F800000#32 ≤ units 0x7F7FFFFF#32 * 2 ^ 149) ∧
    (isFinite 0x40000000#32 = true ∧ signBit 0x40000000#32 = false ∧ isFinite 0x7F7FFFFF#32 = true ∧
      signBit 0x7F7FFFFF#32 = false ∧ units 0x7F7FFFFF#32 * 2 ^ 149 < units 0x40000000#32 * units 0x7F7FFFFF#32) := by
  decide
theorem test_meets_ProductIsNearestEven_boundary :
    units 0x3F800000#32 * units 0x7F7FFFFF#32 = units 0x7F7FFFFF#32 * 2 ^ 149 := by decide
theorem test_meets_UnitDeltaKeepsValue :
    ∃ s : State, s.Good ∧ s.regs.delta = 0x3F800000#32 ∧ 1 < s.regs.remaining.toNat :=
  ⟨blockWith 0x3F800000#32 0x3F800000#32 0x3F800000#32 2#32 3#32 false,
    ⟨by decide, ⟨by decide, by decide, by decide, by decide, by decide⟩⟩, by decide, by decide⟩
theorem test_meets_DeltaFnHasItsProperties :
    Config.specDefault.legal = true ∧ Config.specDefault.inRange 0x00800000#32 = true ∧
      Config.specDefault.inRange 0x7F7FFFFF#32 = true ∧ (1#32 : Word) ≠ 0#32 ∧
      F32.lt 0x00800000#32 0x7F7FFFFF#32 = true := by decide
theorem test_meets_DefaultDeltaIsRoundedRoot :
    Config.specDefault.delta = .correctlyRounded ∧ Config.specDefault.legal = true ∧
      Config.specDefault.inRange 0x7F7FFFFF#32 = true ∧ Config.specDefault.inRange 0x3F800000#32 = true ∧
      (0xFFFFFFFF#32 : Word) ≠ 0#32 := by decide
-- The clauses of DefaultDeltaIsRoundedRoot: +inf and +0 are reached (V-S7, V-S8), and so is a number between.
theorem test_meets_DefaultDeltaIsRoundedRoot_ends :
    (Config.specDefault.deltaFn 0x00800000#32 0x7F7FFFFF#32 1#32).toNat = 0x7F800000 ∧
      (Config.specDefault.deltaFn 0x7F7FFFFF#32 0x00800000#32 1#32).toNat = 0 ∧
      (Config.specDefault.deltaFn 0x3F800000#32 0x7F7FFFFF#32 1#32).toNat = 0x7F7FFFFF := by decide +kernel
theorem test_meets_DefaultDeltaStaysNormal :
    Config.specDefault.inRange 0x00800000#32 = true ∧ Config.specDefault.inRange 0x7F7FFFFF#32 = true ∧
      3 ≤ (3#32 : Word).toNat ∧ 3 ≤ (0xFFFFFFFF#32 : Word).toNat := by decide
theorem test_meets_LongestRisingTransitionHasUnitDelta :
    Config.specDefault.inRange 0x00800000#32 = true ∧ Config.specDefault.inRange 0x7F7FFFFF#32 = true ∧
      F32.le 0x00800000#32 0x7F7FFFFF#32 = true ∧ F32.le 0x00800000#32 0x00800000#32 = true := by decide
/-- A good state at REMAINING 2 with DELTA d. -/
def steep (d : F32) : State := blockWith 0x3F800000#32 0x40000000#32 d 2#32 2#32 false
theorem test_meets_InfiniteOrZeroDeltaIsClamped :
    (steep 0x7F800000#32).Good ∧ (steep 0#32).Good ∧ (steep 0x80000000#32).Good ∧ (steep 0#32).regs.remaining ≠ 0#32 ∧
      ¬ ((steep 0#32).regs.remaining = 1#32 ∧ (steep 0#32).cfg.finalSnap = true) ∧
      isZero (steep 0#32).regs.delta = true ∧ isZero (steep 0x80000000#32).regs.delta = true :=
  ⟨⟨by decide, ⟨by decide, by decide, by decide, by decide, by decide⟩⟩,
    ⟨by decide, ⟨by decide, by decide, by decide, by decide, by decide⟩⟩,
    ⟨by decide, ⟨by decide, by decide, by decide, by decide, by decide⟩⟩, by decide, by decide, by decide, by decide⟩
theorem test_meets_ProductSignAndInfinity :
    (isFinite 0xBF800000#32 = true ∧ isFinite 0x00000000#32 = true) ∧
    (isNaN 0xBF800000#32 = false ∧ isNaN 0x7F800000#32 = false ∧ isZero 0xBF800000#32 = false ∧
      isZero 0x7F800000#32 = false ∧ isInfinite 0x7F800000#32 = true) := by decide
theorem test_meets_DecimalLiteralHasOneZero :
    (F32Literal.decimal false 1 (-60)).word = 0#32 ∧ (F32Literal.decimal false 1 (-45)).word ≠ 0#32 := by decide +kernel

end Sys2Proof.Tests
end

section
/-! SUPPORT. The step of a legal block always answers, and no step changes the configuration. -/

namespace Sys2Proof.Machine

/-- R61, R34: every command writes registers and answers one word on its own port; it touches nothing else. -/
theorem exec_eq_reply (i : Instr) (s : State) : ∃ r w, exec i s = .next (s.reply i.port r w) := by
  cases i <;> exact ⟨_, _, rfl⟩

theorem acceptCommand_answers (c : Command) (s : State) :
    ∃ t, acceptCommand c s = .next t ∧ t.cfg = s.cfg := by
  rcases acceptCommand_cases c s with ⟨-, h⟩ | ⟨-, h⟩
  · exact ⟨_, h, State.ignoreCommand_cfg s⟩
  · obtain ⟨r, w, hexec⟩ := exec_eq_reply (decode c) s
    exact ⟨_, h.trans hexec, State.reply_cfg s _ r w⟩

theorem acceptInput_answers (i : Input) (s : State) :
    ∃ t, acceptInput i s = .next t ∧ t.cfg = s.cfg := by
  cases i with
  | command c => exact acceptCommand_answers c s
  | together onControl onSample =>
    rw [acceptInput]
    rcases acceptTogether_cases onControl onSample s with h | h <;> rw [h]
    · exact acceptCommand_answers ..
    · exact acceptCommand_answers ..
  | resetAssert => exact ⟨_, rfl, State.assertReset_cfg s⟩
  | resetRelease => exact ⟨_, rfl, State.releaseReset_cfg s⟩

/-- A step of a legal block takes its next input, or keeps the state where there is none. -/
theorem step_answers (s : State) (hl : s.cfg.legal = true) : ∃ t, step s = .next t ∧ t.cfg = s.cfg := by
  cases hi : s.inputs with
  | nil => exact ⟨s, step_nil s hl hi, rfl⟩
  | cons i rest =>
    rw [step_cons s i rest hl hi]
    exact acceptInput_answers i { s with inputs := rest }

theorem step_refuses_illegal (s : State) (hl : s.cfg.legal = false) : step s = .refused .illegalConfiguration := by
  simp [step, hl]

/-- Settles O23: a legal block answers whatever its next input is, an illegal configuration is refused. -/
theorem stepStopsOnlyOnIllegalConfiguration : Obligations.StepStopsOnlyOnIllegalConfiguration :=
  fun s => ⟨step_answers s, step_refuses_illegal s⟩

end Sys2Proof.Machine
end

section
/-! SUPPORT. The fields of a word by its magnitude and sign, and the order of R8. -/

namespace Sys2Proof

theorem exponentField_toNat (w : F32) : (exponentField w).toNat = magnitudeBits w / 0x800000 := by
  simp only [exponentField, magnitudeBits, BitVec.extractLsb'_toNat, Nat.shiftRight_eq_div_pow]
  omega

theorem fractionField_toNat (w : F32) : (fractionField w).toNat = magnitudeBits w % 0x800000 := by
  simp only [fractionField, magnitudeBits, BitVec.extractLsb'_toNat, Nat.shiftRight_eq_div_pow]
  omega

theorem magnitudeBits_lt (w : F32) : magnitudeBits w < 0x80000000 := Nat.mod_lt _ (by decide)

theorem isFinite_iff (w : F32) : isFinite w = true ↔ magnitudeBits w < 0x7F800000 := by
  have := magnitudeBits_lt w
  simp only [isFinite, bne_iff_ne, ne_eq, ← BitVec.toNat_inj, exponentField_toNat, BitVec.toNat_ofNat]
  omega

theorem isInfinite_iff (w : F32) : isInfinite w = true ↔ magnitudeBits w = 0x7F800000 := by
  have := magnitudeBits_lt w
  simp only [isInfinite, Bool.and_eq_true, beq_iff_eq, ← BitVec.toNat_inj, exponentField_toNat,
    fractionField_toNat, BitVec.toNat_ofNat]
  omega

theorem isNaN_iff (w : F32) : isNaN w = true ↔ 0x7F800000 < magnitudeBits w := by
  have := magnitudeBits_lt w
  simp only [isNaN, Bool.and_eq_true, beq_iff_eq, bne_iff_ne, ne_eq, ← BitVec.toNat_inj, exponentField_toNat,
    fractionField_toNat, BitVec.toNat_ofNat]
  omega

theorem isNaN_of_isFinite {w : F32} (h : isFinite w = true) : isNaN w = false := by
  rw [isFinite_iff] at h
  rw [Bool.eq_false_iff, Ne, isNaN_iff]
  omega

theorem isInfinite_of_isFinite {w : F32} (h : isFinite w = true) : isInfinite w = false := by
  rw [isFinite_iff] at h
  rw [Bool.eq_false_iff, Ne, isInfinite_iff]
  omega

theorem signBit_eq_false_iff (w : F32) : signBit w = false ↔ w.toNat < 0x80000000 := by
  rw [signBit, BitVec.msb_eq_false_iff_two_mul_lt]
  omega

/-- A word with a clear sign bit is its 31 low bits. -/
theorem magnitudeBits_of_signBit {w : F32} (h : signBit w = false) : magnitudeBits w = w.toNat :=
  Nat.mod_eq_of_lt ((signBit_eq_false_iff w).1 h)

theorem F32.lt_iff (a b : F32) : F32.lt a b = true ↔ isNaN a = false ∧ isNaN b = false ∧ number a < number b := by
  simp [F32.lt, and_assoc]

theorem F32.le_iff (a b : F32) : F32.le a b = true ↔ isNaN a = false ∧ isNaN b = false ∧ number a ≤ number b := by
  simp [F32.le, and_assoc]

theorem F32.le_refl {a : F32} (h : isNaN a = false) : F32.le a a = true := (F32.le_iff a a).2 ⟨h, h, Int.le_refl _⟩

theorem F32.le_of_lt {a b : F32} (h : F32.lt a b = true) : F32.le a b = true := by
  rw [F32.lt_iff] at h
  exact (F32.le_iff a b).2 ⟨h.1, h.2.1, Int.le_of_lt h.2.2⟩

theorem F32.le_trans {a b c : F32} (h : F32.le a b = true) (h' : F32.le b c = true) : F32.le a c = true := by
  rw [F32.le_iff] at *
  exact ⟨h.1, h'.2.1, Int.le_trans h.2.2 h'.2.2⟩

/-- Of two numbers that are no NaN, one is less than the other or the other at most it. -/
theorem F32.lt_eq_false_iff {a b : F32} (ha : isNaN a = false) (hb : isNaN b = false) :
    F32.lt a b = false ↔ F32.le b a = true := by
  simp [F32.lt, F32.le, ha, hb]

theorem F32.lt_eq_false_of_le {a b : F32} (h : F32.le b a = true) : F32.lt a b = false :=
  have ⟨hb, ha, _⟩ := (F32.le_iff b a).1 h
  (F32.lt_eq_false_iff ha hb).2 h

end Sys2Proof
end

section
/-! SUPPORT. clampR (spec/00_scope.md R9) in each of its three branches. -/

namespace Sys2Proof

/-- What R4 says of V_MIN and V_MAX: both finite, 0 < V_MIN <= V_MAX. -/
theorem Config.legal_range {cfg : Config} (h : cfg.legal = true) :
    isFinite cfg.vMin = true ∧ isFinite cfg.vMax = true ∧ F32.lt 0#32 cfg.vMin = true ∧
      F32.le cfg.vMin cfg.vMax = true := by
  simp only [Config.legal, Bool.and_eq_true] at h
  obtain ⟨⟨⟨⟨⟨hmin, hmax⟩, hpos⟩, hle⟩, -⟩, -⟩ := h
  exact ⟨hmin, hmax, hpos, hle⟩

theorem Config.inRange_iff (cfg : Config) (x : F32) :
    cfg.inRange x = true ↔ F32.le cfg.vMin x = true ∧ F32.le x cfg.vMax = true := by
  simp [Config.inRange]

theorem Config.clampR_of_inRange {cfg : Config} {x : F32} (h : cfg.inRange x = true) : cfg.clampR x = x := by
  obtain ⟨hmin, hmax⟩ := (cfg.inRange_iff x).1 h
  simp [Config.clampR, F32.maximum, F32.minimum, F32.lt_eq_false_of_le hmin, F32.lt_eq_false_of_le hmax]

theorem Config.clampR_of_lt_vMin {cfg : Config} {x : F32} (hl : F32.le cfg.vMin cfg.vMax = true)
    (h : F32.lt x cfg.vMin = true) : cfg.clampR x = cfg.vMin := by
  simp [Config.clampR, F32.maximum, F32.minimum, h, F32.lt_eq_false_of_le hl]

theorem Config.clampR_of_vMax_lt {cfg : Config} {x : F32} (hl : F32.le cfg.vMin cfg.vMax = true)
    (h : F32.lt cfg.vMax x = true) : cfg.clampR x = cfg.vMax := by
  have hmin : F32.le cfg.vMin x = true := F32.le_trans hl (F32.le_of_lt h)
  simp [Config.clampR, F32.maximum, F32.minimum, F32.lt_eq_false_of_le hmin, h]

/-- A number lies below the range, above it or in it. -/
theorem Config.range_cases {cfg : Config} (hl : cfg.legal = true) {x : F32} (hx : isNaN x = false) :
    F32.lt x cfg.vMin = true ∨ F32.lt cfg.vMax x = true ∨ cfg.inRange x = true := by
  obtain ⟨hmin, hmax, -, -⟩ := Config.legal_range hl
  cases hlow : F32.lt x cfg.vMin with
  | true => exact .inl rfl
  | false =>
    cases hhigh : F32.lt cfg.vMax x with
    | true => exact .inr (.inl rfl)
    | false =>
      rw [F32.lt_eq_false_iff hx (isNaN_of_isFinite hmin)] at hlow
      rw [F32.lt_eq_false_iff (isNaN_of_isFinite hmax) hx] at hhigh
      exact .inr (.inr ((cfg.inRange_iff x).2 ⟨hlow, hhigh⟩))

theorem Config.clampR_inRange {cfg : Config} (hl : cfg.legal = true) {x : F32} (hx : isNaN x = false) :
    cfg.inRange (cfg.clampR x) = true := by
  obtain ⟨hmin, hmax, -, hle⟩ := Config.legal_range hl
  rcases Config.range_cases hl hx with h | h | h
  · rw [Config.clampR_of_lt_vMin hle h]
    exact (cfg.inRange_iff _).2 ⟨F32.le_refl (isNaN_of_isFinite hmin), hle⟩
  · rw [Config.clampR_of_vMax_lt hle h]
    exact (cfg.inRange_iff _).2 ⟨hle, F32.le_refl (isNaN_of_isFinite hmax)⟩
  · rwa [Config.clampR_of_inRange h]

/-- Settles O43, branch by branch. -/
theorem clampGivesLegalValue : Obligations.ClampGivesLegalValue := by
  intro cfg x hl hx
  obtain ⟨-, -, -, hle⟩ := Config.legal_range hl
  exact ⟨Config.clampR_inRange hl hx, Config.clampR_of_inRange, Config.clampR_of_lt_vMin hle,
    Config.clampR_of_vMax_lt hle⟩

end Sys2Proof
end

section
/-! SUPPORT. Signs: a word without its sign bit, `withSign`, and mul32 of finite words (notes/assumptions/5.md, 19.md). -/

namespace Sys2Proof

theorem and_mask_toNat (w : F32) : (w &&& 0x7FFFFFFF#32).toNat = magnitudeBits w :=
  (BitVec.toNat_and ..).trans (Nat.and_two_pow_sub_one_eq_mod w.toNat 31)

@[simp] theorem magnitudeBits_and_mask (w : F32) : magnitudeBits (w &&& 0x7FFFFFFF#32) = magnitudeBits w := by
  rw [magnitudeBits, and_mask_toNat, Nat.mod_eq_of_lt (magnitudeBits_lt w)]

@[simp] theorem signBit_and_mask (w : F32) : signBit (w &&& 0x7FFFFFFF#32) = false := by
  rw [signBit_eq_false_iff, and_mask_toNat]
  exact magnitudeBits_lt w

@[simp] theorem isFinite_and_mask (w : F32) : isFinite (w &&& 0x7FFFFFFF#32) = isFinite w := by
  rw [Bool.eq_iff_iff, isFinite_iff, isFinite_iff, magnitudeBits_and_mask]

theorem and_mask_of_signBit {w : F32} (h : signBit w = false) : w &&& 0x7FFFFFFF#32 = w :=
  BitVec.eq_of_toNat_eq ((and_mask_toNat w).trans (magnitudeBits_of_signBit h))

@[simp] theorem withSign_false (w : F32) : withSign false w = w := rfl

theorem signBit_withSign {w : F32} (h : signBit w = false) (negative : Bool) :
    signBit (withSign negative w) = negative := by
  cases negative with
  | false => exact h
  | true =>
    rw [withSign, if_pos rfl, signBit, BitVec.msb_or]
    exact Bool.or_true w.msb

theorem withSign_and_mask (negative : Bool) (w : F32) :
    withSign negative w &&& 0x7FFFFFFF#32 = w &&& 0x7FFFFFFF#32 := by
  cases negative with
  | false => rfl
  | true =>
    have hsign : (0x80000000#32 : F32) &&& 0x7FFFFFFF#32 = 0#32 := by decide
    rw [withSign, if_pos rfl, BitVec.and_or_distrib_right, hsign, BitVec.or_zero]

theorem noProduct_of_isFinite {a b : F32} (ha : isFinite a = true) (hb : isFinite b = true) :
    noProduct a b = false := by
  simp [noProduct, isNaN_of_isFinite, isInfinite_of_isFinite, ha, hb]

theorem mul32_of_isFinite {a b : F32} (ha : isFinite a = true) (hb : isFinite b = true) :
    mul32 a b = withSign (signBit a ^^ signBit b) (rne32 (productCut a b)) := by
  simp [mul32, noProduct_of_isFinite ha hb, isInfinite_of_isFinite, ha, hb]

theorem mul32_of_isInfinite {a b : F32} (hp : noProduct a b = false)
    (h : isInfinite a = true ∨ isInfinite b = true) :
    mul32 a b = withSign (signBit a ^^ signBit b) 0x7F800000#32 := by
  simp [mul32, hp, h]

theorem noProduct_of_nonzero {a b : F32} (ha : isNaN a = false) (hb : isNaN b = false) (ha0 : isZero a = false)
    (hb0 : isZero b = false) : noProduct a b = false := by
  simp [noProduct, ha, hb, ha0, hb0]

/-! ## What rne32 finds -/

/-- No cut rounds up to a word beyond +inf. -/
theorem roundsUpTo_beyond (r : Cut) {w : Nat} (h : 0x7F800000 < w) : roundsUpTo r w = false := by
  rw [roundsUpTo, if_neg (by omega), if_neg (by omega), if_neg (by omega)]

/-- rne32 gives the word that r rounds up to and whose successor r does not round up to. -/
theorem rne32_spec (r : Cut) :
    roundsUpTo r (rne32 r).toNat = true ∧ roundsUpTo r ((rne32 r).toNat + 1) = false ∧
      (rne32 r).toNat ≤ 0x7F800000 := by
  obtain ⟨hok, hnext, -, hlt⟩ :=
    searchBits_spec (roundsUpTo r) 31 0 rfl (roundsUpTo_beyond r (by decide))
  have hword : (rne32 r).toNat = searchBits (roundsUpTo r) 31 0 := by
    rw [rne32, BitVec.toNat_ofNat, Nat.mod_eq_of_lt (by omega)]
  rw [hword]
  refine ⟨hok, hnext, ?_⟩
  by_contra hbeyond
  rw [roundsUpTo_beyond r (by omega)] at hok
  cases hok

@[simp] theorem signBit_rne32 (r : Cut) : signBit (rne32 r) = false := by
  have := (rne32_spec r).2.2
  rw [signBit_eq_false_iff]
  omega

/-! ## The product's sign -/

/-- The cut of a product takes no notice of the signs. -/
theorem productCut_and_mask (a b : F32) :
    productCut (a &&& 0x7FFFFFFF#32) (b &&& 0x7FFFFFFF#32) = productCut a b := by
  unfold productCut
  rw [magnitudeBits_and_mask, magnitudeBits_and_mask]

theorem mul32_and_mask {a b : F32} (ha : isFinite a = true) (hb : isFinite b = true) :
    mul32 (a &&& 0x7FFFFFFF#32) (b &&& 0x7FFFFFFF#32) = rne32 (productCut a b) := by
  rw [mul32_of_isFinite (by simpa using ha) (by simpa using hb), productCut_and_mask]
  simp

/-- Settles O51: finite operands by the rounded magnitude, an infinite operand by its own branch of mul32. -/
theorem productSignAndInfinity : Obligations.ProductSignAndInfinity := by
  intro a b
  constructor
  · intro ha hb
    rw [mul32_and_mask ha hb, mul32_of_isFinite ha hb]
    exact ⟨signBit_withSign (signBit_rne32 _) _,
      (withSign_and_mask _ _).trans (and_mask_of_signBit (signBit_rne32 _))⟩
  · intro ha hb ha0 hb0 hinf
    rw [mul32_of_isInfinite (noProduct_of_nonzero ha hb ha0 hb0) hinf]
    rfl

end Sys2Proof
end

section
/-! SUPPORT. Rounding to nearest (spec/00_scope.md R9): the values of neighbouring words, the middle between them, and what rne32
gives for a real known by its comparisons. -/

namespace Sys2Proof

/-! ## The value of a word by its 31 low bits -/

/-- The number that the 31 low bits w stand for, in units of 2^-149. -/
def valueOf (w : Nat) : Nat := significand w * 2 ^ scale w

theorem units_eq_valueOf (w : F32) : units w = valueOf (magnitudeBits w) := Nat.shiftLeft_eq ..

/-- The next word is one unit of this word's exponent larger, across a change of exponent too. -/
theorem valueOf_succ (w : Nat) : valueOf (w + 1) = (significand w + 1) * 2 ^ scale w := by
  unfold valueOf
  by_cases hcarry : w % 0x800000 = 0x7FFFFF
  · have hdiv : (w + 1) / 0x800000 = w / 0x800000 + 1 := by omega
    have hmod : (w + 1) % 0x800000 = 0 := by omega
    by_cases hsub : w / 0x800000 = 0
    · simp [significand, scale, hdiv, hmod, hsub, hcarry]
    · obtain ⟨e, he⟩ := Nat.exists_eq_succ_of_ne_zero hsub
      simp only [significand, hdiv, he, Nat.succ_eq_add_one, Nat.add_eq_zero_iff, one_ne_zero, and_false, and_self,
        ↓reduceIte, hmod, add_zero, scale, add_tsub_cancel_right, Nat.pow_succ, hcarry, Nat.reduceAdd]
      omega
  · have hdiv : (w + 1) / 0x800000 = w / 0x800000 := by omega
    have hmod : (w + 1) % 0x800000 = w % 0x800000 + 1 := by omega
    by_cases hsub : w / 0x800000 = 0
    · simp [significand, scale, hdiv, hmod, hsub]
    · simp [significand, scale, hdiv, hmod, hsub, Nat.add_assoc]

theorem valueOf_strictMono : StrictMono valueOf :=
  strictMono_nat_of_lt_succ fun w => by
    rw [valueOf_succ]
    exact Nat.mul_lt_mul_of_pos_right (Nat.lt_succ_self _) (by positivity)

/-- Twice the middle of two neighbouring words, as `roundsUpTo` writes it. -/
theorem middle_eq (w : Nat) : (2 * significand w + 1) * 2 ^ scale w = valueOf w + valueOf (w + 1) := by
  rw [valueOf_succ, valueOf]
  ring

/-! ## Rounding a real that is known by comparisons of p with f -/

/-- r is the cut of the real x (in half units of 2^-149) with f x = p, for a monotone f: it compares p with f of a dyadic number. -/
def Cut.ComparesBy (r : Cut) (p : Nat) (f : Nat → Nat) : Prop := ∀ m e, r m e = compareNat p (f (m * 2 ^ e))

variable {r : Cut} {p : Nat} {f : Nat → Nat}

/-- r rounds up to w + 1 just when it lies above the middle of w and w + 1, or on it with w + 1 even. -/
theorem roundsUpTo_succ_iff (h : r.ComparesBy p f) {w : Nat} (hw : w < 0x7F7FFFFF) :
    roundsUpTo r (w + 1) = true ↔
      f (valueOf w + valueOf (w + 1)) < p ∨ p = f (valueOf w + valueOf (w + 1)) ∧ (w + 1) % 2 = 0 := by
  rw [roundsUpTo, if_neg (Nat.succ_ne_zero w), if_pos (by omega)]
  simp only [strict_eq, Nat.add_sub_cancel, h _ _, middle_eq]
  rcases Nat.lt_trichotomy p (f (valueOf w + valueOf (w + 1))) with hp | hp | hp
  · rw [compareNat_eq_lt.2 hp]
    exact iff_of_false Bool.false_ne_true (by omega)
  · rw [compareNat_eq_eq.2 hp]
    simp [← hp]
  · rw [compareNat_eq_gt.2 hp]
    exact iff_of_true rfl (.inl hp)

/-- +inf is what lies above the largest finite value (notes/assumptions/7.md). -/
theorem roundsUpTo_infinity_iff (h : r.ComparesBy p f) :
    roundsUpTo r 0x7F800000 = true ↔ f (2 * valueOf 0x7F7FFFFF) < p := by
  have hmax : 2 * significand 0x7F7FFFFF * 2 ^ scale 0x7F7FFFFF = 2 * valueOf 0x7F7FFFFF := Nat.mul_assoc ..
  rw [roundsUpTo, if_neg (by decide), if_neg (by decide), if_pos rfl, h, beq_iff_eq, compareNat_eq_gt, hmax]

/-- rne32 of a real at or below the largest finite value is finite. -/
theorem rne32_finite (h : r.ComparesBy p f) (hp : p ≤ f (2 * valueOf 0x7F7FFFFF)) : (rne32 r).toNat < 0x7F800000 := by
  obtain ⟨hok, -, hle⟩ := rne32_spec r
  refine lt_of_le_of_ne hle fun hinf => ?_
  rw [hinf, roundsUpTo_infinity_iff h] at hok
  omega

/-- rne32 of a real above the largest finite value is +inf. -/
theorem rne32_overflow (h : r.ComparesBy p f) (hf : Monotone f) (hp : f (2 * valueOf 0x7F7FFFFF) < p) :
    rne32 r = 0x7F800000#32 := by
  obtain ⟨-, hnext, hle⟩ := rne32_spec r
  refine BitVec.eq_of_toNat_eq (le_antisymm hle (Nat.le_of_not_lt fun hlt => ?_))
  have hlast : (rne32 r).toNat ≤ 0x7F7FFFFF := Nat.le_of_lt_succ hlt
  rcases hlast.lt_or_eq with hw | hw
  · have hmiddle : valueOf (rne32 r).toNat + valueOf ((rne32 r).toNat + 1) ≤ 2 * valueOf 0x7F7FFFFF := by
      have hself := valueOf_strictMono.monotone hlast
      have hsucc : valueOf ((rne32 r).toNat + 1) ≤ valueOf 0x7F7FFFFF := valueOf_strictMono.monotone hw
      omega
    have hroundsUp := (roundsUpTo_succ_iff h hw).2 (.inl (lt_of_le_of_lt (hf hmiddle) hp))
    rw [hnext] at hroundsUp
    cases hroundsUp
  · rw [hw, (roundsUpTo_infinity_iff h).2 hp] at hnext
    cases hnext

/-- The real is at or above the middle of rne32 and any word k below it, and on it only if rne32 is even. -/
theorem rne32_middle_below (h : r.ComparesBy p f) (hf : Monotone f) {k : Nat} (hk : k < (rne32 r).toNat)
    (hfinite : (rne32 r).toNat < 0x7F800000) :
    f (valueOf k + valueOf (rne32 r).toNat) ≤ p ∧
      (f (valueOf k + valueOf (rne32 r).toNat) = p → (rne32 r).toNat % 2 = 0) := by
  obtain ⟨v, hv⟩ : ∃ v, (rne32 r).toNat = v + 1 := Nat.exists_eq_succ_of_ne_zero (Nat.ne_zero_of_lt hk)
  have hok := (rne32_spec r).1
  rw [hv] at hk hfinite hok ⊢
  rw [roundsUpTo_succ_iff h (by omega)] at hok
  have hkv : f (valueOf k + valueOf (v + 1)) ≤ f (valueOf v + valueOf (v + 1)) :=
    hf (Nat.add_le_add_right (valueOf_strictMono.monotone (Nat.le_of_lt_succ hk)) _)
  omega

/-- The real is at or below the middle of rne32 and any finite word k above it, and on it only if rne32 is even. -/
theorem rne32_middle_above (h : r.ComparesBy p f) (hf : Monotone f) {k : Nat} (hk : (rne32 r).toNat < k)
    (hfinite : k < 0x7F800000) :
    p ≤ f (valueOf k + valueOf (rne32 r).toNat) ∧
      (f (valueOf k + valueOf (rne32 r).toNat) = p → (rne32 r).toNat % 2 = 0) := by
  have hnext := (rne32_spec r).2.1
  rw [Bool.eq_false_iff, Ne, roundsUpTo_succ_iff h (by omega), Nat.add_comm (valueOf _)] at hnext
  have hsucc : f (valueOf ((rne32 r).toNat + 1) + valueOf (rne32 r).toNat) ≤ f (valueOf k + valueOf (rne32 r).toNat) :=
    hf (Nat.add_le_add_right (valueOf_strictMono.monotone hk) _)
  omega

/-- A finite word k below rne32 has the real at or above their middle, one above it at or below; on a middle rne32 is even. -/
theorem rne32_middle (h : r.ComparesBy p f) (hf : Monotone f) {k : Nat} (hfinite : (rne32 r).toNat < 0x7F800000)
    (hk : k < 0x7F800000) (hne : k ≠ (rne32 r).toNat) :
    (k < (rne32 r).toNat → f (valueOf k + valueOf (rne32 r).toNat) ≤ p) ∧
      ((rne32 r).toNat < k → p ≤ f (valueOf k + valueOf (rne32 r).toNat)) ∧
      (f (valueOf k + valueOf (rne32 r).toNat) = p → (rne32 r).toNat % 2 = 0) := by
  refine ⟨fun hlt => (rne32_middle_below h hf hlt hfinite).1, fun hgt => (rne32_middle_above h hf hgt hk).1, ?_⟩
  rcases Nat.lt_or_gt_of_ne hne with hlt | hgt
  · exact (rne32_middle_below h hf hlt hfinite).2
  · exact (rne32_middle_above h hf hgt hk).2

end Sys2Proof
end

section
/-! SUPPORT. The product of two finite words is rounded to the nearest (spec/00_scope.md R9). -/

namespace Sys2Proof

/-- A product in units of 2^-298 against dyadic numbers in half units of 2^-149. -/
theorem productCut_comparesBy (a b : F32) : (productCut a b).ComparesBy (units a * units b) (· * 2 ^ 148) := by
  intro m e
  have hproduct : significand (magnitudeBits a) * significand (magnitudeBits b)
      * 2 ^ (scale (magnitudeBits a) + scale (magnitudeBits b)) = units a * units b := by
    rw [units_eq_valueOf, units_eq_valueOf, valueOf, valueOf, Nat.pow_add, Nat.mul_mul_mul_comm]
  rw [productCut, compareDyadic_eq, hproduct, Nat.pow_add, ← Nat.mul_assoc]

theorem mul_half_unit_monotone : Monotone (· * 2 ^ 148 : Nat → Nat) := fun _ _ h => Nat.mul_le_mul_right _ h

theorem mul32_of_nonnegative {a b : F32} (ha : isFinite a = true) (hb : isFinite b = true) (hsa : signBit a = false)
    (hsb : signBit b = false) : mul32 a b = rne32 (productCut a b) := by
  rw [mul32_of_isFinite ha hb, hsa, hsb]
  rfl

theorem units_of_signBit {w : F32} (h : signBit w = false) : units w = valueOf w.toNat := by
  rw [units_eq_valueOf, magnitudeBits_of_signBit h]

theorem isFinite_iff_of_signBit {w : F32} (h : signBit w = false) : isFinite w = true ↔ w.toNat < 0x7F800000 := by
  rw [isFinite_iff, magnitudeBits_of_signBit h]

/-- The distance from the word with the 31 low bits k to a product p, in units of 2^-298. -/
def productDistance (k p : Nat) : Int := |((valueOf k * 2 ^ 149 : Nat) : Int) - (p : Int)|

/-- What lies on w's side of the middle of w and u is at least as near to w as to u. -/
theorem abs_sub_le_of_middle {x w u : Int} (hbelow : u < w → u + w ≤ 2 * x) (habove : w < u → 2 * x ≤ u + w) :
    |w - x| ≤ |u - x| := by
  rcases lt_trichotomy u w with h | rfl | h
  · have hx := hbelow h
    rw [abs_of_nonpos (a := u - x) (by omega), abs_le]
    omega
  · exact le_refl _
  · have hx := habove h
    rw [abs_of_nonneg (a := u - x) (by omega), abs_le]
    omega

/-- No finite word k is nearer to the product than its rounding, and one that is equally near leaves the rounding even. -/
theorem rne32_nearest_product {r : Cut} {p k : Nat} (h : r.ComparesBy p (· * 2 ^ 148))
    (hfinite : (rne32 r).toNat < 0x7F800000) (hk : k < 0x7F800000) (hne : k ≠ (rne32 r).toNat) :
    productDistance (rne32 r).toNat p ≤ productDistance k p ∧
      (productDistance (rne32 r).toNat p = productDistance k p → (rne32 r).toNat % 2 = 0) := by
  obtain ⟨hbelow, habove, heven⟩ := rne32_middle h mul_half_unit_monotone hfinite hk hne
  have hvalue : valueOf k ≠ valueOf (rne32 r).toNat := valueOf_strictMono.injective.ne hne
  rw [← valueOf_strictMono.lt_iff_lt] at hbelow habove
  refine ⟨abs_sub_le_of_middle (by omega) (by omega), fun heq => heven ?_⟩
  rcases abs_eq_abs.1 heq with hsame | hmirror <;> omega

/-- Settles O44: mul32 is rne32 of the product's cut, which is nearest below the overflow bound and +inf above it. -/
theorem productIsNearestEven : Obligations.ProductIsNearestEven := by
  intro a b ha hb hsa hsb
  have hmaxUnits : units 0x7F7FFFFF#32 * 2 ^ 149 = 2 * valueOf 0x7F7FFFFF * 2 ^ 148 := by
    have hbits : (0x7F7FFFFF#32 : F32).toNat = 0x7F7FFFFF := rfl
    rw [units_of_signBit (by decide), hbits, Nat.mul_comm 2, Nat.mul_assoc, ← Nat.pow_succ']
  rw [mul32_of_nonnegative ha hb hsa hsb, hmaxUnits]
  constructor
  · intro hp
    have hfinite := rne32_finite (productCut_comparesBy a b) hp
    refine ⟨(isFinite_iff_of_signBit (signBit_rne32 _)).2 hfinite, signBit_rne32 _, fun u hu hsu hne => ?_⟩
    rw [units_of_signBit (signBit_rne32 _), units_of_signBit hsu]
    exact rne32_nearest_product (productCut_comparesBy a b) hfinite ((isFinite_iff_of_signBit hsu).1 hu)
      (fun h => hne (BitVec.eq_of_toNat_eq h))
  · exact rne32_overflow (productCut_comparesBy a b) mul_half_unit_monotone

end Sys2Proof
end

section
/-! SUPPORT. What a command does to the registers, said once for all commands, and which register each command writes
(spec/10_state.md R12, spec/41_control_writes.md R67). -/

namespace Sys2Proof.Machine

/-- The registers after the command i: four commands write some, every other keeps them all. `exec_eq_after` ties it to `exec`. -/
def Regs.after (cfg : Config) (r : Regs) : Instr → Regs
  | .step => r.advance cfg
  | .setTarget t => (r.recordDegenerate (cfg.sanitize t).2).retarget cfg (cfg.sanitize t).1
  | .setDuration n => { r with duration := n }
  | .init v => (r.recordDegenerate (cfg.sanitize v).2).startAt (cfg.sanitize v).1
  | _ => r

theorem exec_eq_after (i : Instr) (s : State) :
    ∃ w, exec i s = .next (s.reply i.port (s.regs.after s.cfg i) w) := by
  cases i <;> exact ⟨_, rfl⟩

theorem Regs.retarget_of_duration_zero {cfg : Config} {r : Regs} (h : r.duration = 0#32) (x : F32) :
    r.retarget cfg x = { r with target := x, value := x, delta := one, remaining := 0#32 } := if_pos h

theorem Regs.retarget_of_duration_ne_zero {cfg : Config} {r : Regs} (h : r.duration ≠ 0#32) (x : F32) :
    r.retarget cfg x = { r with target := x, delta := cfg.deltaFn r.value x r.duration, remaining := r.duration } :=
  if_neg h

theorem Regs.duration_eq_zero_of_retarget_value_ne {cfg : Config} {r : Regs} {x : F32}
    (h : (r.retarget cfg x).value ≠ r.value) : r.duration = 0#32 := by
  by_contra hd
  rw [Regs.retarget_of_duration_ne_zero hd] at h
  exact h rfl

/-- Settles O29, command by command. -/
theorem registersChangeOnlyByTheirWriters : Obligations.RegistersChangeOnlyByTheirWriters := by
  intro i s
  obtain ⟨w, hexec⟩ := exec_eq_after i s
  refine ⟨_, hexec, rfl, rfl, rfl, rfl, ?_⟩
  rw [State.reply_regs]
  cases i with
  | step => simp [Regs.after]
  | setTarget t =>
    refine ⟨fun h => .inr (.inr ⟨t, rfl, ?_⟩), ?_⟩
    · exact Regs.duration_eq_zero_of_retarget_value_ne (r := s.regs.recordDegenerate (s.cfg.sanitize t).2) h
    · simp [Regs.after]
  | setDuration n => simp [Regs.after]
  | init v => simp [Regs.after]
  | _ => simp [Regs.after]

end Sys2Proof.Machine
end

section
/-! SUPPORT. Numbers of the legal range are finite and strictly positive (spec/10_state.md R13, R14, R21). -/

namespace Sys2Proof

theorem number_of_signBit {w : F32} (h : signBit w = false) : number w = units w := by
  simp [number, h]

theorem signBit_of_number_pos {w : F32} (h : 0 < number w) : signBit w = false := by
  cases hs : signBit w with
  | false => rfl
  | true =>
    rw [number, if_pos hs] at h
    omega

theorem number_pos_of_zero_lt {w : F32} (h : F32.lt 0#32 w = true) : 0 < number w := ((F32.lt_iff _ _).1 h).2.2

/-- What is at most a finite word, in units, is finite. -/
theorem isFinite_of_units_le {w u : F32} (hu : isFinite u = true) (h : units w ≤ units u) : isFinite w = true := by
  rw [units_eq_valueOf, units_eq_valueOf, valueOf_strictMono.le_iff_le] at h
  rw [isFinite_iff] at *
  exact lt_of_le_of_lt h hu

theorem magnitudeBits_pos_iff (w : F32) : 0 < magnitudeBits w ↔ 0 < units w := by
  rw [units_eq_valueOf]
  exact valueOf_strictMono.lt_iff_lt.symm

/-- A number in [V_MIN, V_MAX] lies between them in units, with a clear sign bit. -/
theorem Config.inRange_units {cfg : Config} (hl : cfg.legal = true) {x : F32} (hx : cfg.inRange x = true) :
    signBit x = false ∧ 0 < units x ∧ units cfg.vMin ≤ units x ∧ units x ≤ units cfg.vMax := by
  obtain ⟨-, -, hpos, -⟩ := Config.legal_range hl
  obtain ⟨hmin, hmax⟩ := (cfg.inRange_iff x).1 hx
  have hminPos : 0 < number cfg.vMin := number_pos_of_zero_lt hpos
  have hminLe : number cfg.vMin ≤ number x := ((F32.le_iff _ _).1 hmin).2.2
  have hleMax : number x ≤ number cfg.vMax := ((F32.le_iff _ _).1 hmax).2.2
  have hxPos : 0 < number x := Int.lt_of_lt_of_le hminPos hminLe
  have hmaxPos : 0 < number cfg.vMax := Int.lt_of_lt_of_le hxPos hleMax
  have hsign : signBit x = false := signBit_of_number_pos hxPos
  rw [number_of_signBit (signBit_of_number_pos hminPos)] at hminLe
  rw [number_of_signBit (signBit_of_number_pos hmaxPos)] at hleMax
  rw [number_of_signBit hsign] at hxPos hminLe hleMax
  exact ⟨hsign, by omega⟩

theorem Config.isFinite_of_inRange {cfg : Config} (hl : cfg.legal = true) {x : F32} (hx : cfg.inRange x = true) :
    isFinite x = true := by
  obtain ⟨-, hmax, -, -⟩ := Config.legal_range hl
  obtain ⟨-, -, -, hle⟩ := Config.inRange_units hl hx
  exact isFinite_of_units_le hmax hle

theorem isZero_iff (w : F32) : isZero w = true ↔ magnitudeBits w = 0 := by
  simp only [isZero, Bool.and_eq_true, beq_iff_eq, ← BitVec.toNat_inj, exponentField_toNat, fractionField_toNat,
    BitVec.toNat_ofNat]
  omega

theorem Config.isZero_of_inRange {cfg : Config} (hl : cfg.legal = true) {x : F32} (hx : cfg.inRange x = true) :
    isZero x = false := by
  obtain ⟨-, hpos, -, -⟩ := Config.inRange_units hl hx
  rw [Bool.eq_false_iff, Ne, isZero_iff]
  exact Nat.ne_of_gt ((magnitudeBits_pos_iff x).2 hpos)

namespace Machine

/-- Settles O27: VALUE and TARGET of a good state are in the range, so between two finite positive numbers. -/
theorem goodValuesAreFinitePositive : Obligations.GoodValuesAreFinitePositive := by
  intro s hs x hx
  have hrange : s.cfg.inRange x = true := by
    rcases hx with rfl | rfl
    · exact hs.regs.value_inRange
    · exact hs.regs.target_inRange
  have hfinite := Config.isFinite_of_inRange hs.legal hrange
  obtain ⟨hsign, hpos, hmin, hmax⟩ := Config.inRange_units hs.legal hrange
  rw [← magnitudeBits_pos_iff, magnitudeBits_of_signBit hsign] at hpos
  exact ⟨hfinite, isNaN_of_isFinite hfinite, hsign, hpos, hmin, hmax⟩

end Machine

end Sys2Proof
end

section
/-! SUPPORT. The operations that write VALUE, TARGET and DELTA give legal ones: Sanitize, DeltaFn and the product of STEP
(spec/41_control_writes.md R59, R63, spec/40_sample_port.md R55). -/

namespace Sys2Proof

theorem Config.vMin_inRange {cfg : Config} (hl : cfg.legal = true) : cfg.inRange cfg.vMin = true := by
  obtain ⟨hmin, -, -, hle⟩ := Config.legal_range hl
  exact (cfg.inRange_iff _).2 ⟨F32.le_refl (isNaN_of_isFinite hmin), hle⟩

theorem Config.vMax_inRange {cfg : Config} (hl : cfg.legal = true) : cfg.inRange cfg.vMax = true := by
  obtain ⟨-, hmax, -, hle⟩ := Config.legal_range hl
  exact (cfg.inRange_iff _).2 ⟨hle, F32.le_refl (isNaN_of_isFinite hmax)⟩

theorem Config.resetValue_inRange {cfg : Config} (hl : cfg.legal = true) : cfg.inRange cfg.resetValue = true := by
  simp only [Config.legal, Bool.and_eq_true] at hl
  obtain ⟨⟨-, hmin⟩, hmax⟩ := hl
  exact (cfg.inRange_iff _).2 ⟨hmin, hmax⟩

theorem Config.sanitize_inRange {cfg : Config} (hl : cfg.legal = true) (w : F32) :
    cfg.inRange (cfg.sanitize w).1 = true := by
  unfold Config.sanitize
  split
  · exact Config.vMin_inRange hl
  · next hnumber =>
    split
    · exact Config.vMin_inRange hl
    · next hlow =>
      split
      · exact Config.vMax_inRange hl
      · next hhigh =>
        have hnan : isNaN w = false := by
          rw [Bool.or_eq_true, not_or] at hnumber
          exact Bool.eq_false_iff.2 hnumber.1
        exact ((Config.range_cases hl hnan).resolve_left hlow).resolve_left hhigh

/-! ## Words that are no NaN -/

theorem isNaN_of_toNat_le {w : F32} (h : w.toNat ≤ 0x7F800000) : isNaN w = false := by
  rw [Bool.eq_false_iff, Ne, isNaN_iff, magnitudeBits]
  omega

@[simp] theorem isNaN_rne32 (r : Cut) : isNaN (rne32 r) = false := isNaN_of_toNat_le (rne32_spec r).2.2

@[simp] theorem isNaN_and_mask (w : F32) : isNaN (w &&& 0x7FFFFFFF#32) = isNaN w := by
  rw [Bool.eq_iff_iff, isNaN_iff, isNaN_iff, magnitudeBits_and_mask]

@[simp] theorem isNaN_withSign (negative : Bool) (w : F32) : isNaN (withSign negative w) = isNaN w := by
  rw [← isNaN_and_mask, withSign_and_mask, isNaN_and_mask]

/-- A product that R9 gives a value is no NaN. -/
theorem isNaN_mul32 {a b : F32} (h : noProduct a b = false) : isNaN (mul32 a b) = false := by
  rw [mul32, h, if_neg Bool.false_ne_true, isNaN_withSign]
  split
  · decide
  · exact isNaN_rne32 _

/-- A finite factor other than zero has a product with every number, an infinity included. -/
theorem noProduct_of_finite_nonzero {a b : F32} (ha : isFinite a = true) (ha0 : isZero a = false)
    (hb : isNaN b = false) : noProduct a b = false := by
  simp [noProduct, isNaN_of_isFinite ha, isInfinite_of_isFinite ha, ha0, hb]

/-- What STEP writes before the last sample is legal, whatever the number DELTA is. -/
theorem Config.clampR_mul32_inRange {cfg : Config} (hl : cfg.legal = true) {v d : F32} (hv : cfg.inRange v = true)
    (hd : isNaN d = false) : cfg.inRange (cfg.clampR (mul32 v d)) = true :=
  Config.clampR_inRange hl (isNaN_mul32
    (noProduct_of_finite_nonzero (Config.isFinite_of_inRange hl hv) (Config.isZero_of_inRange hl hv) hd))

/-! ## DeltaFn -/

theorem lt_zero_of_signBit {w : F32} (h : signBit w = false) : F32.lt w 0#32 = false := by
  have hzero : number 0#32 = 0 := by decide
  rw [Bool.eq_false_iff, Ne, F32.lt_iff, number_of_signBit h, hzero]
  omega

/-- On its arguments DeltaFn is the default, or a result that P1 to P3 hold of. -/
theorem Config.deltaFn_cases (cfg : Config) {v t : F32} {n : Word} (hv : cfg.inRange v = true)
    (ht : cfg.inRange t = true) (hn : n ≠ 0#32) :
    cfg.deltaFn v t n = rootDelta v t n ∨ deltaConforms v t (cfg.deltaFn v t n) = true := by
  rw [Config.deltaFn, if_pos (by simp [hv, ht, hn])]
  cases cfg.delta with
  | correctlyRounded => exact .inl rfl
  | implementation k =>
    by_cases hconforms : deltaConforms v t (Config.implementedDelta k v t n) = true
    · simp [hconforms]
    · simp [hconforms]

/-- P1 of R63: DELTA is no NaN and not negative. -/
theorem Config.deltaFn_nonnegative (cfg : Config) {v t : F32} {n : Word} (hv : cfg.inRange v = true)
    (ht : cfg.inRange t = true) (hn : n ≠ 0#32) :
    isNaN (cfg.deltaFn v t n) = false ∧ F32.lt (cfg.deltaFn v t n) 0#32 = false := by
  rcases cfg.deltaFn_cases hv ht hn with hroot | hconforms
  · rw [hroot]
    exact ⟨isNaN_rne32 _, lt_zero_of_signBit (signBit_rne32 _)⟩
  · simp only [deltaConforms, Bool.and_eq_true, Bool.not_eq_true'] at hconforms
    obtain ⟨⟨⟨hP1, -⟩, -⟩, -⟩ := hconforms
    exact hP1

end Sys2Proof
end

section
/-! SUPPORT. The invariant of spec/10_state.md (R15, R21, R22): it holds after reset, every command and every input keep it. -/

namespace Sys2Proof.Machine

variable {cfg : Config} {r : Regs} {s t : State}

/-- Registers at rest at a legal value are good. -/
theorem Regs.good_of_at_rest {x : F32} (hx : cfg.inRange x = true) (hvalue : r.value = x) (htarget : r.target = x)
    (hdelta : r.delta = one) : r.Good cfg where
  value_inRange := by rwa [hvalue]
  target_inRange := by rwa [htarget]
  settled := fun _ _ => hvalue.trans htarget.symm
  delta_notNaN := by rw [hdelta]; decide
  delta_notNegative := by rw [hdelta]; decide

theorem Regs.afterReset_good (hl : cfg.legal = true) : (Regs.afterReset cfg).Good cfg :=
  Regs.good_of_at_rest (Config.resetValue_inRange hl) rfl rfl rfl

/-- Settles O25: reset leaves the registers at rest at RESET_VALUE, which R4 puts in the range. -/
theorem resetStateIsGood : Obligations.ResetStateIsGood := by
  have hdefault : Config.specDefault.legal = true := by decide
  exact ⟨⟨hdefault, Regs.afterReset_good hdefault⟩, fun _ hl => Regs.afterReset_good hl⟩

/-! ## The register updates -/

/-- The invariant says nothing of DURATION and DEGEN. -/
theorem Regs.Good.with_duration_degen (h : r.Good cfg) (n : Word) (b : Bool) :
    Regs.Good cfg { r with duration := n, degen := b } :=
  ⟨h.value_inRange, h.target_inRange, h.settled, h.delta_notNaN, h.delta_notNegative⟩

theorem Regs.Good.recordDegenerate (h : r.Good cfg) (b : Bool) : (r.recordDegenerate b).Good cfg :=
  h.with_duration_degen r.duration (r.degen || b)

theorem Regs.Good.retarget (h : r.Good cfg) {x : F32} (hx : cfg.inRange x = true) : (r.retarget cfg x).Good cfg := by
  by_cases hd : r.duration = 0#32
  · rw [Regs.retarget_of_duration_zero hd]
    exact Regs.good_of_at_rest hx rfl rfl rfl
  · rw [Regs.retarget_of_duration_ne_zero hd]
    obtain ⟨hnan, hnonneg⟩ := cfg.deltaFn_nonnegative h.value_inRange hx hd
    exact ⟨h.value_inRange, hx, fun _ hrem => absurd hrem hd, hnan, hnonneg⟩

/-- A sample copies TARGET, or multiplies and clamps; the latter leaves a transition running where FINAL_SNAP is set. -/
theorem Regs.Good.advance (h : r.Good cfg) (hl : cfg.legal = true) : (r.advance cfg).Good cfg := by
  unfold Regs.advance
  split
  · exact ⟨h.target_inRange, h.target_inRange, fun _ _ => rfl, h.delta_notNaN, h.delta_notNegative⟩
  · split
    · exact ⟨h.target_inRange, h.target_inRange, fun _ _ => rfl, h.delta_notNaN, h.delta_notNegative⟩
    · next hnosnap =>
      exact ⟨Config.clampR_mul32_inRange hl h.value_inRange h.delta_notNaN, h.target_inRange,
        fun hsnap hrem => absurd ⟨hrem, hsnap⟩ hnosnap, h.delta_notNaN, h.delta_notNegative⟩

theorem Regs.Good.after (h : r.Good cfg) (hl : cfg.legal = true) (i : Instr) : (r.after cfg i).Good cfg := by
  cases i with
  | step => exact h.advance hl
  | setTarget t => exact (h.recordDegenerate _).retarget (Config.sanitize_inRange hl t)
  | setDuration n => exact h.with_duration_degen n r.degen
  | init v => exact Regs.good_of_at_rest (Config.sanitize_inRange hl v) rfl rfl rfl
  | _ => exact h

theorem Regs.advance_of_settled (hrem : r.remaining = 0#32) (hvalue : r.value = r.target) : r.advance cfg = r := by
  obtain ⟨value, target, _, _, _, _⟩ := r
  obtain rfl : value = target := hvalue
  exact if_pos hrem

/-- Settles O28: at rest VALUE is TARGET already, so that the copy of R55 changes nothing. -/
theorem settledStepChangesNothing : Obligations.SettledStepChangesNothing := by
  intro s hs hsnap hrem
  have hvalue : s.regs.value = s.regs.target := hs.regs.settled hsnap hrem
  have hadvance : s.regs.advance s.cfg = s.regs := Regs.advance_of_settled hrem hvalue
  refine ⟨_, rfl, ?_, ?_⟩
  · rw [State.reply_regs, hadvance]
  · rw [State.reply_response, hadvance, hvalue]

/-! ## Commands, inputs, steps -/

/-- The invariant says nothing of what is still to reach the ports, nor of the model's own counter. -/
theorem State.Good.with_inputs_ties (hs : s.Good) (inputs : List Input) (ties : Nat) :
    State.Good { s with inputs := inputs, ties := ties } := ⟨hs.legal, hs.regs⟩

theorem State.Good.exec (hs : s.Good) {i : Instr} (h : exec i s = .next t) : t.Good := by
  obtain ⟨w, hexec⟩ := exec_eq_after i s
  obtain rfl : s.reply i.port (s.regs.after s.cfg i) w = t := by simpa using hexec.symm.trans h
  exact ⟨hs.legal, hs.regs.after hs.legal i⟩

theorem State.Good.acceptCommand (hs : s.Good) {c : Command} (h : acceptCommand c s = .next t) : t.Good := by
  rcases acceptCommand_cases c s with ⟨-, hignored⟩ | ⟨-, hexec⟩
  · obtain rfl : s.ignoreCommand = t := by simpa using hignored.symm.trans h
    exact ⟨hs.legal, hs.regs⟩
  · exact hs.exec (hexec.symm.trans h)

theorem State.Good.acceptInput (hs : s.Good) {i : Input} (h : acceptInput i s = .next t) : t.Good := by
  cases i with
  | command c => exact hs.acceptCommand h
  | together onControl onSample =>
    rcases acceptTogether_cases onControl onSample s with hfirst | hfirst
    · exact (hs.with_inputs_ties _ _).acceptCommand (hfirst.symm.trans h)
    · exact (hs.with_inputs_ties _ _).acceptCommand (hfirst.symm.trans h)
  | resetAssert =>
    obtain rfl : s.assertReset = t := by simpa [Machine.acceptInput] using h
    exact ⟨hs.legal, Regs.afterReset_good hs.legal⟩
  | resetRelease =>
    obtain rfl : s.releaseReset = t := by simpa [Machine.acceptInput] using h
    exact ⟨hs.legal, hs.regs⟩

/-- Settles O24: a step takes one input, and every input keeps the invariant. -/
theorem stepKeepsGood : Obligations.StepKeepsGood := by
  intro s t hs hstep
  obtain ⟨-, ⟨-, rfl⟩ | ⟨i, rest, -, haccept⟩⟩ := step_cases hstep
  · exact hs
  · exact (hs.with_inputs_ties rest s.ties).acceptInput haccept

/-- Settles O26, by induction on the number of steps: a good state answers (R80, R4) with a good state (R21, R22). -/
theorem everyRunIsSafe : Obligations.EveryRunIsSafe := by
  intro n
  induction n with
  | zero => exact fun s hs => hs
  | succ n ih =>
    intro s hs
    obtain ⟨t, hstep, -⟩ := step_answers s hs.legal
    exact ⟨hs, t, hstep, ih t (stepKeepsGood s t hs hstep)⟩

end Sys2Proof.Machine
end

section
/-! SUPPORT. The bytes of a word (spec/20_memory.md R32). -/

namespace Sys2Proof

/-- Byte k of a word, bits 8k+7 to 8k, by division. -/
theorem extractLsb'_byte (w : Word) (k : Nat) : w.extractLsb' (8 * k) 8 = BitVec.ofNat 8 (w.toNat / 256 ^ k) := by
  rw [BitVec.extractLsb', Nat.shiftRight_eq_div_pow, Nat.pow_mul]

/-- Byte 0 comes first. -/
theorem wordBytes_getElem? (w : Word) {k : Nat} (hk : k < 4) : (wordBytes w)[k]? = some (w.extractLsb' (8 * k) 8) := by
  interval_cases k <;> rfl

/-- Adjacent bit fields append to one field; three appends give the whole word. -/
theorem wordOfBytes_wordBytes (w : Word) : wordOfBytes (wordBytes w) = some w := by
  rw [wordBytes, wordOfBytes, BitVec.extractLsb'_append_extractLsb'_eq_extractLsb' (rfl : 24 = 16 + 8),
    BitVec.extractLsb'_append_extractLsb'_eq_extractLsb' (rfl : 16 = 8 + 8),
    BitVec.extractLsb'_append_extractLsb'_eq_extractLsb' (rfl : 8 = 0 + 8), BitVec.extractLsb'_eq_self]

/-- Settles O15: the fields of the bytes adjoin, and each is a quotient by a power of 256. -/
theorem bytesAreLittleEndian : Obligations.BytesAreLittleEndian := by
  refine fun w => ⟨wordOfBytes_wordBytes w, fun k hk => ?_⟩
  rw [wordBytes_getElem? w hk, extractLsb'_byte]

end Sys2Proof
end

section
/-! SUPPORT. A command as one function on the state, and what follows for its repetition and for the order of two commands
(spec/20_memory.md R34 to R37). -/

namespace Sys2Proof.Machine

/-- The word that the command i returns, read off the registers as i leaves them: STEP returns the VALUE it has just written (R55),
a read a register that it keeps (R68 to R75). -/
def Regs.returned (r : Regs) : Instr → Word
  | .step => r.value
  | .readValue _ => r.value
  | .readTarget _ => r.target
  | .complete _ => r.completeWord
  | .readStatus _ => r.statusWord
  | .readRemaining => r.remaining
  | .readDuration => r.duration
  | .readDelta => r.delta
  | _ => 0#32

/-- The state after the command i, response included. `exec_eq_afterCommand` ties it to `exec`. -/
def State.afterCommand (s : State) (i : Instr) : State :=
  s.reply i.port (s.regs.after s.cfg i) ((s.regs.after s.cfg i).returned i)

theorem exec_eq_afterCommand (i : Instr) (s : State) : exec i s = .next (s.afterCommand i) := by
  cases i <;> rfl

@[simp] theorem State.afterCommand_regs (s : State) (i : Instr) : (s.afterCommand i).regs = s.regs.after s.cfg i := rfl
@[simp] theorem State.afterCommand_cfg (s : State) (i : Instr) : (s.afterCommand i).cfg = s.cfg := rfl
@[simp] theorem State.afterCommand_response (s : State) (i : Instr) :
    (s.afterCommand i).response = some ⟨i.port, (s.regs.after s.cfg i).returned i⟩ := rfl

/-! ## Repetition -/

/-- At the end of a transition STEP copies TARGET, and then there is nothing left to copy. -/
theorem Regs.advance_advance_of_complete {cfg : Config} {r : Regs} (hrem : r.remaining = 0#32) :
    (r.advance cfg).advance cfg = r.advance cfg := by
  have hcopy : r.advance cfg = { r with value := r.target } := if_pos hrem
  rw [hcopy]
  exact Regs.advance_of_settled hrem rfl

/-- The same target from the same VALUE with the same DURATION: a jump is there already, a transition starts again. -/
theorem Regs.retarget_retarget (cfg : Config) (r : Regs) (b : Bool) (x : F32) :
    (((r.recordDegenerate b).retarget cfg x).recordDegenerate b).retarget cfg x =
      (r.recordDegenerate b).retarget cfg x := by
  by_cases hd : r.duration = 0#32
  · simp [Regs.retarget_of_duration_zero, Regs.recordDegenerate, hd]
  · simp [Regs.retarget_of_duration_ne_zero, Regs.recordDegenerate, hd]

theorem Regs.after_after {cfg : Config} {r : Regs} {i : Instr} (h : i = .step → r.remaining = 0#32) :
    (r.after cfg i).after cfg i = r.after cfg i := by
  cases i with
  | step => exact Regs.advance_advance_of_complete (h rfl)
  | setTarget t => exact Regs.retarget_retarget cfg r _ _
  | setDuration n => rfl
  | init v => simp [Regs.after, Regs.recordDegenerate, Regs.startAt]
  | _ => rfl

/-- Settles O33: the second time the registers stay, and with them the word returned. -/
theorem repeatedCommandChangesNothing : Obligations.RepeatedCommandChangesNothing := by
  intro i s hstep
  have hrepeat : (s.afterCommand i).afterCommand i = s.afterCommand i := by
    rw [State.afterCommand, State.afterCommand_regs, State.afterCommand_cfg, Regs.after_after hstep]
    rfl
  exact ⟨_, exec_eq_afterCommand i s, by rw [exec_eq_afterCommand, hrepeat]⟩

/-! ## Commands at the ports -/

theorem acceptCommand_of_released {s : State} (hr : s.resetLine = false) (c : Command) :
    acceptCommand c s = exec (decode c) s := by
  simp [acceptCommand, hr]

/-- Settles O16: the step takes the command out of the inputs, and its port, out of reset, decodes and runs it. -/
theorem stepRunsDecodedCommand : Obligations.StepRunsDecodedCommand := by
  rintro s c _ rest hl hi hr rfl
  rw [step_cons s _ rest hl hi]
  exact acceptCommand_of_released (s := { s with inputs := rest }) hr c

theorem runCommands_pair (i j : Instr) (s : State) : runCommands [i, j] s = (s.afterCommand i).afterCommand j := by
  rw [runCommands_cons (exec_eq_afterCommand i s), runCommands_cons (exec_eq_afterCommand j _), runCommands_nil]

/-- A command at the ports, and then the one that is the next input. -/
theorem acceptCommand_then_step {s : State} (hl : s.cfg.legal = true) (hr : s.resetLine = false) (c : Command)
    {d : Command} {rest : List Input} (hi : s.inputs = .command d :: rest) :
    acceptCommand c s = .next (s.afterCommand (decode c)) ∧
      step (s.afterCommand (decode c)) =
        .next (State.afterCommand { s.afterCommand (decode c) with inputs := rest } (decode d)) := by
  constructor
  · rw [acceptCommand_of_released hr, exec_eq_afterCommand]
  · rw [stepRunsDecodedCommand (s.afterCommand (decode c)) d _ rest hl hi hr rfl, exec_eq_afterCommand]

/-! What two commands do to the registers and the response depends on the registers and the configuration alone, not on the
later inputs or the counter of ties. -/

theorem runCommands_pair_regs (i j : Instr) (s : State) :
    (runCommands [i, j] s).regs = (s.regs.after s.cfg i).after s.cfg j := by
  rw [runCommands_pair, State.afterCommand_regs, State.afterCommand_regs, State.afterCommand_cfg]

theorem runCommands_pair_response (i j : Instr) (s : State) :
    (runCommands [i, j] s).response = some ⟨j.port, ((s.regs.after s.cfg i).after s.cfg j).returned j⟩ := by
  rw [runCommands_pair, State.afterCommand_response, State.afterCommand_regs, State.afterCommand_cfg]

/-- Settles O21: the first step runs the command that the tie lets go first, the second step the other. -/
theorem togetherRunsInOneOrder : Obligations.TogetherRunsInOneOrder := by
  intro s wc ws rest hl hi hr
  have hstep : step s = acceptTogether wc ws { s with inputs := rest } := step_cons s _ rest hl hi
  rcases acceptTogether_cases wc ws { s with inputs := rest } with hfirst | hfirst
  · obtain ⟨haccept, hsecond⟩ := acceptCommand_then_step
      (s := { s with ties := s.ties + 1, inputs := .command ⟨.sample, ws⟩ :: rest }) hl hr ⟨.control, wc⟩ rfl
    exact ⟨_, _, hstep.trans (hfirst.trans haccept), hsecond, rfl,
      .inl ⟨(runCommands_pair_regs _ _ s).symm, (runCommands_pair_response _ _ s).symm⟩⟩
  · obtain ⟨haccept, hsecond⟩ := acceptCommand_then_step
      (s := { s with ties := s.ties + 1, inputs := .command ⟨.control, wc⟩ :: rest }) hl hr ⟨.sample, ws⟩ rfl
    exact ⟨_, _, hstep.trans (hfirst.trans haccept), hsecond, rfl,
      .inr ⟨(runCommands_pair_regs _ _ s).symm, (runCommands_pair_response _ _ s).symm⟩⟩

end Sys2Proof.Machine
end

section
/-! SUPPORT. Which opcodes a port accepts, and what a command decodes to (spec/30_encoding.md R46 to R50, R54). -/

namespace Sys2Proof

variable {p : Port} {op : Opcode}

/-! ## Accepted opcodes (R49) -/

theorem accepts_sample_iff (op : Opcode) :
    accepts .sample op = true ↔ op ∈ [0x01#8, 0x05#8, 0x06#8, 0x07#8, 0x08#8] := by
  simp only [accepts, BitVec.ule, Bool.or_eq_true, Bool.and_eq_true, beq_iff_eq, decide_eq_true_eq, List.mem_cons,
    List.not_mem_nil, or_false, ← BitVec.toNat_inj, BitVec.toNat_ofNat]
  omega

theorem accepts_control_iff (op : Opcode) :
    accepts .control op = true ↔
      op ∈ [0x02#8, 0x03#8, 0x04#8, 0x05#8, 0x06#8, 0x07#8, 0x08#8, 0x09#8, 0x0A#8, 0x0B#8] := by
  simp only [accepts, BitVec.ule, Bool.and_eq_true, decide_eq_true_eq, List.mem_cons, List.not_mem_nil,
    or_false, ← BitVec.toNat_inj, BitVec.toNat_ofNat]
  omega

/-- No port accepts an opcode outside the map of R46. -/
theorem not_accepts_of_unmapped (p : Port) (h : op.toNat = 0x00 ∨ 0x0C ≤ op.toNat) : accepts p op = false := by
  cases p with
  | sample =>
    simp only [Bool.eq_false_iff, ne_eq, accepts_sample_iff, List.mem_cons, List.not_mem_nil, or_false,
      ← BitVec.toNat_inj, BitVec.toNat_ofNat]
    omega
  | control =>
    simp only [Bool.eq_false_iff, ne_eq, accepts_control_iff, List.mem_cons, List.not_mem_nil, or_false,
      ← BitVec.toNat_inj, BitVec.toNat_ofNat]
    omega

/-! ## The two branches of the decoder (R54) -/

theorem Command.exists_fields (c : Command) : ∃ p op x, c = ⟨p, commandWord op x⟩ :=
  ⟨c.port, opField c.word, operandField c.word, by rw [commandWord_fields]⟩

theorem decode_of_accepts (h : accepts p op = true) (x : Word) :
    decode ⟨p, commandWord op x⟩ = namedCommand p op x := by
  rw [decode_commandWord, if_pos h]

theorem decode_of_not_accepts (h : accepts p op = false) (x : Word) :
    decode ⟨p, commandWord op x⟩ = .reserved p op := by
  rw [decode_commandWord, h, if_neg Bool.false_ne_true]

theorem Instr.reserved_wellFormed_iff : (Instr.reserved p op).wellFormed = true ↔ accepts p op = false := by
  simp [Instr.wellFormed]

/-- The command named for an accepted opcode is well-formed and has that port and opcode. -/
theorem namedCommand_keeps_fields (h : accepts p op = true) (x : Word) :
    (namedCommand p op x).wellFormed = true ∧ (namedCommand p op x).port = p ∧ (namedCommand p op x).opcode = op := by
  cases p with
  | sample =>
    rw [accepts_sample_iff] at h
    simp only [List.mem_cons, List.not_mem_nil, or_false] at h
    rcases h with rfl | rfl | rfl | rfl | rfl <;> exact ⟨rfl, rfl, rfl⟩
  | control =>
    rw [accepts_control_iff] at h
    simp only [List.mem_cons, List.not_mem_nil, or_false] at h
    rcases h with rfl | rfl | rfl | rfl | rfl | rfl | rfl | rfl | rfl | rfl <;> exact ⟨rfl, rfl, rfl⟩

theorem decode_keeps_fields (p : Port) (op : Opcode) (x : Word) :
    (decode ⟨p, commandWord op x⟩).wellFormed = true ∧ (decode ⟨p, commandWord op x⟩).port = p ∧
      (decode ⟨p, commandWord op x⟩).opcode = op := by
  cases h : accepts p op with
  | true =>
    rw [decode_of_accepts h]
    exact namedCommand_keeps_fields h x
  | false =>
    rw [decode_of_not_accepts h]
    exact ⟨Instr.reserved_wellFormed_iff.2 h, rfl, rfl⟩

/-- RESERVED is the verdict on what the port does not accept, and on nothing else: it would not be well-formed. -/
theorem decode_eq_reserved_iff (x : Word) : decode ⟨p, commandWord op x⟩ = .reserved p op ↔ accepts p op = false := by
  refine ⟨fun h => ?_, fun h => decode_of_not_accepts h x⟩
  obtain ⟨hwf, -, -⟩ := decode_keeps_fields p op x
  rw [h] at hwf
  exact Instr.reserved_wellFormed_iff.1 hwf

/-- What reaches port S without being a STEP is a read of VALUE, TARGET or STATUS, or RESERVED. -/
theorem decode_sample_cases {w : CommandWord} (h : opField w ≠ 0x01#8) :
    decode ⟨.sample, w⟩ = .readValue .sample ∨ decode ⟨.sample, w⟩ = .readTarget .sample ∨
      decode ⟨.sample, w⟩ = .complete .sample ∨ decode ⟨.sample, w⟩ = .readStatus .sample ∨
      decode ⟨.sample, w⟩ = .reserved .sample (opField w) := by
  rw [← commandWord_fields w, opField_commandWord]
  cases haccepts : accepts .sample (opField w) with
  | false => simp [decode_of_not_accepts haccepts]
  | true =>
    rw [decode_of_accepts haccepts]
    simp only [accepts_sample_iff, List.mem_cons, List.not_mem_nil, or_false, h, false_or] at haccepts
    rcases haccepts with hop | hop | hop | hop <;> simp [hop, namedCommand]

/-! ## Round trips -/

/-- Settles O10, by cases on the instruction: a mnemonic's own port accepts its opcode, which names it, and a well-formed RESERVED
holds an opcode that its port does not accept. -/
theorem decodeEncodeRoundTrip : Obligations.DecodeEncodeRoundTrip := by
  intro i hwf
  cases i with
  | reserved p op => exact decode_of_not_accepts (Instr.reserved_wellFormed_iff.1 hwf) _
  | readValue p | readTarget p | complete p | readStatus p => cases p <;> exact decode_of_accepts rfl _
  | _ => exact decode_of_accepts rfl _

/-- A command whose operand is read (R47) is encoded back whole. -/
theorem encode_decode_of_operand (h : op ∈ [0x02#8, 0x03#8, 0x04#8]) (x : Word) :
    encode (decode ⟨.control, commandWord op x⟩) = ⟨.control, commandWord op x⟩ := by
  simp only [List.mem_cons, List.not_mem_nil, or_false] at h
  rcases h with rfl | rfl | rfl <;> exact congrArg encode (decode_of_accepts rfl x)

/-- Settles O11, on the two fields that a command word is made of. -/
theorem encodeDecodeKeepsCommand : Obligations.EncodeDecodeKeepsCommand := by
  intro c
  obtain ⟨p, op, x, rfl⟩ := c.exists_fields
  obtain ⟨hwf, hport, hop⟩ := decode_keeps_fields p op x
  refine ⟨hwf, hport, ?_, ?_⟩
  · rw [encode_word, opField_commandWord, opField_commandWord, hop]
  · rintro rfl hoperand
    rw [opField_commandWord] at hoperand
    exact encode_decode_of_operand hoperand x

/-- An instruction with another opcode than those of R47's operands is encoded with operand zero. -/
theorem Instr.operand_of_ignored {i : Instr} (h : i.opcode ∉ [0x02#8, 0x03#8, 0x04#8]) : i.operand = 0#32 := by
  cases i with
  | setTarget t => simp [Instr.opcode] at h
  | setDuration n => simp [Instr.opcode] at h
  | init v => simp [Instr.opcode] at h
  | _ => rfl

/-- Settles O12: decoding, encoding and decoding again gives the same instruction, and the encoder has no operand to write. -/
theorem ignoredOperandHasNoEffect : Obligations.IgnoredOperandHasNoEffect := by
  intro p op x y hop
  have hzero : ∀ z, decode ⟨p, commandWord op z⟩ = decode ⟨p, commandWord op 0#32⟩ := fun z => by
    obtain ⟨hwf, hport, hopcode⟩ := decode_keeps_fields p op z
    have hoperand := Instr.operand_of_ignored (hopcode.symm ▸ hop)
    rw [← decodeEncodeRoundTrip _ hwf, encode, hport, hopcode, hoperand]
  rw [hzero x, hzero y]

/-- Settles O13: RESERVED is the verdict just on the opcodes outside the port's list. -/
theorem portsAcceptTheirOpcodes : Obligations.PortsAcceptTheirOpcodes := by
  intro op x
  constructor
  · rw [decode_eq_reserved_iff, ← accepts_sample_iff, Bool.not_eq_true]
  · rw [decode_eq_reserved_iff, ← accepts_control_iff, Bool.not_eq_true]

/-- Settles O9: ten closed words, decoded by evaluation. -/
theorem specWordsDecode : Obligations.SpecWordsDecode := by
  unfold Obligations.SpecWordsDecode
  decide

/-- Settles O14, line by line: each is the definition of its mnemonic, with the default port and the word worked out. -/
theorem pseudoInstructionsExpand : Obligations.PseudoInstructionsExpand :=
  fun _ _ _ _ => ⟨rfl, rfl, rfl, rfl, rfl, rfl, rfl, rfl, rfl, rfl, rfl, rfl, rfl, rfl, rfl⟩

end Sys2Proof
end

section
/-! SUPPORT. The commands of port S other than STEP, and RESERVED, at the machine (spec/30_encoding.md R49, R50,
spec/60_exceptions.md R82). -/

namespace Sys2Proof.Machine

/-- Settles O34: the reads of port S and RESERVED keep every register. -/
theorem samplePortOnlyWritesByStep : Obligations.SamplePortOnlyWritesByStep := by
  intro w s hw
  refine ⟨_, exec_eq_afterCommand _ s, ?_⟩
  rw [State.afterCommand_regs]
  rcases decode_sample_cases hw with h | h | h | h | h <;> rw [h] <;> rfl

theorem Regs.isComplete_congr {r r' : Regs} (h : r.remaining = 0#32 ↔ r'.remaining = 0#32) :
    r.isComplete = r'.isComplete := by
  rw [Regs.isComplete, Regs.isComplete, Bool.eq_iff_iff, beq_iff_eq, beq_iff_eq, h]

/-- Settles O35, read by read: VALUE, TARGET, whether REMAINING is 0, and that with DEGEN. -/
theorem sampleReadsIgnorePrivateRegisters : Obligations.SampleReadsIgnorePrivateRegisters := by
  intro w s s' hw hvalue htarget hdegen hremaining
  have hcomplete := Regs.isComplete_congr hremaining
  refine ⟨_, _, exec_eq_afterCommand _ s, exec_eq_afterCommand _ s', ?_⟩
  rw [State.afterCommand_response, State.afterCommand_response]
  rcases decode_sample_cases hw with h | h | h | h | h <;>
    simp [h, Regs.after, Regs.returned, Regs.completeWord, Regs.statusWord, hvalue, htarget, hdegen, hcomplete]

/-- Settles O8: the opcode is out of the map or out of the port's list, so the port does not accept it; RESERVED returns 0. -/
theorem reservedCommandIsNoOp : Obligations.ReservedCommandIsNoOp := by
  refine fun s p op x => ⟨fun h => decode_of_not_accepts ?_ x, rfl⟩
  rcases h with h | h | h
  · exact not_accepts_of_unmapped p (.inl h)
  · exact not_accepts_of_unmapped p (.inr h)
  · exact h

end Sys2Proof.Machine
end

section
/-! SUPPORT. Decimal literals (spec/30_encoding.md R52): the cut of digits · 10^exponent, and the sign of what it rounds to. -/

namespace Sys2Proof

/-- The real digits · 10^exponent in half units of 2^-149, scaled by the power of ten of a negative exponent. -/
theorem decimalCut_comparesBy (digits : Nat) (exponent : Int) :
    (decimalCut digits exponent).ComparesBy (digits * 10 ^ exponent.toNat * 2 ^ 150)
      (· * 10 ^ (-exponent).toNat) := by
  intro m e
  unfold decimalCut
  split
  · next h =>
    have hneg : (-exponent).toNat = 0 := by omega
    simp [compareDyadic_eq, hneg]
  · next h =>
    have hpos : exponent.toNat = 0 := by omega
    simp [compareDyadic_eq, hpos, Nat.mul_right_comm]

/-- rne32 of zero is +0: any other word lies above it, and so does its middle with zero. -/
theorem rne32_zero {r : Cut} {f : Nat → Nat} (h : r.ComparesBy 0 f) (hf : StrictMono f) : rne32 r = 0#32 := by
  by_contra hne
  have hpos : 0 < (rne32 r).toNat := Nat.pos_of_ne_zero fun hzero => hne (BitVec.eq_of_toNat_eq hzero)
  have hmiddle := (rne32_middle_below h hf.monotone hpos (rne32_finite h (Nat.zero_le _))).1
  have hvalue : valueOf 0 < valueOf (rne32 r).toNat := valueOf_strictMono hpos
  have := hf (a := 0) (b := valueOf 0 + valueOf (rne32 r).toNat) (by omega)
  omega

theorem rne32_decimalCut_zero (exponent : Int) : rne32 (decimalCut 0 exponent) = 0#32 := by
  have h := decimalCut_comparesBy 0 exponent
  rw [Nat.zero_mul, Nat.zero_mul] at h
  exact rne32_zero h fun a b hab => Nat.mul_lt_mul_of_pos_right hab (by positivity)

/-! ## signedLiteral -/

@[simp] theorem signedLiteral_false (m : F32) : signedLiteral false m = m := rfl

@[simp] theorem signedLiteral_zero (negative : Bool) : signedLiteral negative 0#32 = 0#32 := by
  cases negative <;> rfl

theorem signedLiteral_true_of_ne_zero {m : F32} (h : m ≠ 0#32) : signedLiteral true m = m ||| 0x80000000#32 := by
  simp [signedLiteral, withSign, h]

/-- Without its sign bit the word is the magnitude, which is +0 or leaves a set bit. -/
theorem signedLiteral_ne_negative_zero (negative : Bool) {m : F32} (h : signBit m = false) :
    signedLiteral negative m ≠ 0x80000000#32 := by
  intro heq
  have hmask : (0x80000000#32 : F32) &&& 0x7FFFFFFF#32 = 0#32 := by decide
  have hzero : m = 0#32 := by
    rw [← and_mask_of_signBit h, ← withSign_and_mask, ← signedLiteral, heq, hmask]
  rw [hzero, signedLiteral_zero] at heq
  exact absurd heq (by decide)

/-- Settles O52: a literal is `signedLiteral` of a rounded magnitude, whose sign bit is clear. -/
theorem decimalLiteralHasOneZero : Obligations.DecimalLiteralHasOneZero := by
  intro negative digits exponent
  simp only [F32Literal.word, signedLiteral_false, rne32_decimalCut_zero, signedLiteral_zero, true_and, and_true]
  refine ⟨signedLiteral_ne_negative_zero negative (signBit_rne32 _), fun hzero => ?_, signedLiteral_true_of_ne_zero⟩
  rw [hzero, signedLiteral_zero]

end Sys2Proof
end

section
/-! SUPPORT. The products of STEP in R55's corner cases: DELTA = 1.0, +inf and zero (spec/40_sample_port.md R55). -/

namespace Sys2Proof

/-! ## DELTA = 1.0 -/

/-- A real that is a finite word itself rounds to that word: every other word lies on one side of it, and so does their middle. -/
theorem rne32_of_exact {r : Cut} {p : Nat} {f : Nat → Nat} (h : r.ComparesBy p f) (hf : StrictMono f) {w : F32}
    (hw : w.toNat < 0x7F800000) (hp : p = f (2 * valueOf w.toNat)) : rne32 r = w := by
  have hle : valueOf w.toNat ≤ valueOf 0x7F7FFFFF := valueOf_strictMono.monotone (Nat.le_of_lt_succ hw)
  have hfinite := rne32_finite h (hp.trans_le (hf.monotone (Nat.mul_le_mul_left 2 hle)))
  by_contra hne
  have hbits : w.toNat ≠ (rne32 r).toNat := fun heq => hne (BitVec.eq_of_toNat_eq heq.symm)
  obtain ⟨hbelow, habove, -⟩ := rne32_middle h hf.monotone hfinite hw hbits
  rw [hp, hf.le_iff_le] at hbelow habove
  rcases Nat.lt_or_gt_of_ne hbits with hlt | hgt
  · have hvalue := valueOf_strictMono hlt
    have := hbelow hlt
    omega
  · have hvalue := valueOf_strictMono hgt
    have := habove hgt
    omega

theorem mul_half_unit_strictMono : StrictMono (· * 2 ^ 148 : Nat → Nat) := fun _ _ h =>
  Nat.mul_lt_mul_of_pos_right h (by positivity)

/-- 1.0 is 2^149 units, so that the exact product is the other factor. -/
theorem mul32_one {v : F32} (hfinite : isFinite v = true) (hsign : signBit v = false) : mul32 v one = v := by
  have hone : units one = 2 * 2 ^ 148 := by decide
  rw [mul32_of_nonnegative hfinite (by decide) hsign (by decide)]
  refine rne32_of_exact (productCut_comparesBy v one) mul_half_unit_strictMono
    ((isFinite_iff_of_signBit hsign).1 hfinite) ?_
  rw [hone, units_of_signBit hsign, ← Nat.mul_assoc, Nat.mul_comm 2]

theorem Config.clampR_mul32_one {cfg : Config} (hl : cfg.legal = true) {v : F32} (hv : cfg.inRange v = true) :
    cfg.clampR (mul32 v one) = v := by
  obtain ⟨hsign, -, -, -⟩ := Config.inRange_units hl hv
  rw [mul32_one (Config.isFinite_of_inRange hl hv) hsign, Config.clampR_of_inRange hv]

/-! ## DELTA = +inf -/

theorem F32.lt_infinity {x : F32} (hfinite : isFinite x = true) (hsign : signBit x = false) :
    F32.lt x 0x7F800000#32 = true := by
  rw [F32.lt_iff, number_of_signBit hsign, number_of_signBit (by decide), units_eq_valueOf, units_eq_valueOf]
  exact ⟨isNaN_of_isFinite hfinite, by decide, Int.ofNat_lt.2 (valueOf_strictMono ((isFinite_iff x).1 hfinite))⟩

theorem Config.clampR_mul32_infinity {cfg : Config} (hl : cfg.legal = true) {v : F32} (hv : cfg.inRange v = true) :
    cfg.clampR (mul32 v 0x7F800000#32) = cfg.vMax := by
  obtain ⟨-, hmax, -, hle⟩ := Config.legal_range hl
  obtain ⟨hsign, -, -, -⟩ := Config.inRange_units hl hv
  obtain ⟨hmaxSign, -, -, -⟩ := Config.inRange_units hl (Config.vMax_inRange hl)
  have hproduct : mul32 v 0x7F800000#32 = 0x7F800000#32 := by
    rw [mul32_of_isInfinite (noProduct_of_finite_nonzero (Config.isFinite_of_inRange hl hv)
      (Config.isZero_of_inRange hl hv) (by decide)) (.inr (by decide)), hsign]
    rfl
  rw [hproduct, Config.clampR_of_vMax_lt hle (F32.lt_infinity hmax hmaxSign)]

/-! ## DELTA zero, of either sign -/

theorem units_of_isZero {w : F32} (h : isZero w = true) : units w = 0 := by
  rw [units_eq_valueOf, (isZero_iff w).1 h]
  rfl

theorem isFinite_of_isZero {w : F32} (h : isZero w = true) : isFinite w = true := by
  rw [isFinite_iff, (isZero_iff w).1 h]
  decide

theorem F32.lt_of_isZero {z x : F32} (hz : isZero z = true) (hx : F32.lt 0#32 x = true) : F32.lt z x = true := by
  obtain ⟨-, hnan, -⟩ := (F32.lt_iff _ _).1 hx
  have hnumber : number z = 0 := by simp [number, units_of_isZero hz]
  rw [F32.lt_iff, hnumber]
  exact ⟨isNaN_of_isFinite (isFinite_of_isZero hz), hnan, number_pos_of_zero_lt hx⟩

/-- A finite word times zero is zero, with some sign (notes/assumptions/5.md). -/
theorem isZero_mul32 {a b : F32} (ha : isFinite a = true) (hb : isZero b = true) : isZero (mul32 a b) = true := by
  have hcut := productCut_comparesBy a b
  rw [units_of_isZero hb, Nat.mul_zero] at hcut
  rw [mul32_of_isFinite ha (isFinite_of_isZero hb), rne32_zero hcut mul_half_unit_strictMono]
  cases signBit a ^^ signBit b <;> decide

theorem Config.clampR_mul32_zero {cfg : Config} (hl : cfg.legal = true) {v d : F32} (hv : cfg.inRange v = true)
    (hd : isZero d = true) : cfg.clampR (mul32 v d) = cfg.vMin := by
  obtain ⟨-, -, hpos, hle⟩ := Config.legal_range hl
  exact Config.clampR_of_lt_vMin hle (F32.lt_of_isZero (isZero_mul32 (Config.isFinite_of_inRange hl hv) hd) hpos)

end Sys2Proof
end

section
/-! SUPPORT. STEP in each of its three branches (spec/40_sample_port.md R55). -/

namespace Sys2Proof.Machine

variable {cfg : Config} {r : Regs}

theorem Regs.advance_of_complete (hrem : r.remaining = 0#32) : r.advance cfg = { r with value := r.target } :=
  if_pos hrem

theorem Regs.advance_of_last (hrem : r.remaining = 1#32) (hsnap : cfg.finalSnap = true) :
    r.advance cfg = { r with remaining := 0#32, value := r.target } := by
  simp [Regs.advance, hrem, hsnap]

theorem Regs.advance_of_multiplying (hne : r.remaining ≠ 0#32) (hlast : ¬ (r.remaining = 1#32 ∧ cfg.finalSnap = true)) :
    r.advance cfg = { r with
      remaining := r.remaining - 1#32
      value := cfg.clampR (mul32 r.value r.delta) } := by
  have hzero : r.remaining - 1#32 = 0#32 → r.remaining = 1#32 := by bv_omega
  rw [Regs.advance, if_neg hne, if_neg (fun h => hlast ⟨hzero h.1, h.2⟩)]

/-- STEP answers the registers after one sample, with their VALUE as response. -/
theorem exec_step_of_advance {s : State} (h : s.regs.advance s.cfg = r) :
    exec .step s = .next (s.reply .sample r r.value) := by
  rw [← h]
  rfl

/-- A STEP that multiplies, with the clamped product worked out. -/
theorem exec_step_of_product {s : State} {x : F32} (hne : s.regs.remaining ≠ 0#32)
    (hlast : ¬ (s.regs.remaining = 1#32 ∧ s.cfg.finalSnap = true))
    (hx : s.cfg.clampR (mul32 s.regs.value s.regs.delta) = x) :
    exec .step s = .next
      (s.reply .sample { s.regs with remaining := s.regs.remaining - 1#32, value := x } x) := by
  rw [← hx]
  exact exec_step_of_advance (Regs.advance_of_multiplying hne hlast)

/-- Settles O1: only port S accepts 0x01, and each clause on STEP is a branch of R55. -/
theorem stepAdvancesThenReturns : Obligations.StepAdvancesThenReturns := by
  refine fun s => ⟨decode_of_accepts (by decide), decode_of_not_accepts (by decide), ?_, ?_, ?_⟩
  · exact fun hrem => exec_step_of_advance (Regs.advance_of_complete hrem)
  · exact fun hrem hsnap => exec_step_of_advance (Regs.advance_of_last hrem hsnap)
  · exact fun hne hlast => exec_step_of_product hne hlast rfl

/-- Settles O45: VALUE · 1.0 is VALUE, which is in the range already. -/
theorem unitDeltaKeepsValue : Obligations.UnitDeltaKeepsValue := by
  intro s hs hdelta hrem
  have hvalue : s.cfg.clampR (mul32 s.regs.value s.regs.delta) = s.regs.value := by
    rw [hdelta]
    exact Config.clampR_mul32_one hs.legal hs.regs.value_inRange
  refine ⟨_, exec_step_of_product (by bv_omega) (by bv_omega) hvalue, rfl, ?_⟩
  rw [State.reply_regs]
  bv_omega

/-- Settles O50: the product with +inf is +inf and above the range, that with a zero is a zero and below it. -/
theorem infiniteOrZeroDeltaIsClamped : Obligations.InfiniteOrZeroDeltaIsClamped := by
  intro s hs hne hlast
  have hrange := hs.regs.value_inRange
  constructor
  · intro hdelta
    refine exec_step_of_product hne hlast ?_
    rw [hdelta, Config.clampR_mul32_infinity hs.legal hrange]
  · intro hdelta
    exact exec_step_of_product hne hlast (Config.clampR_mul32_zero hs.legal hrange hdelta)

end Sys2Proof.Machine
end

section
/-! SUPPORT. Runs of STEPs (spec/40_sample_port.md R56, R57). -/

namespace Sys2Proof

/-- A positive number in the range passes Sanitize as it is (R59), whatever the configuration. -/
theorem Config.sanitize_of_inRange {cfg : Config} {w : F32} (hpos : F32.lt 0#32 w = true) (hw : cfg.inRange w = true) :
    cfg.sanitize w = (w, false) := by
  obtain ⟨hmin, hmax⟩ := (cfg.inRange_iff w).1 hw
  obtain ⟨-, hnan, -⟩ := (F32.lt_iff _ _).1 hpos
  simp [Config.sanitize, hnan, hpos, F32.lt_eq_false_of_le hmin, F32.lt_eq_false_of_le hmax]

namespace Machine

variable {cfg : Config} {r : Regs}

/-! ## The registers after k samples -/

/-- Before the end of a transition each sample multiplies and clamps (R56). -/
theorem Regs.advance_iterate_of_lt (k : Nat) (hk : k < r.remaining.toNat) :
    (Regs.advance cfg)^[k] r = { r with
      remaining := r.remaining - BitVec.ofNat 32 k
      value := (fun x => cfg.clampR (mul32 x r.delta))^[k] r.value } := by
  induction k with
  | zero => simp
  | succ k ih =>
    have hne : r.remaining - BitVec.ofNat 32 k ≠ 0#32 := by bv_omega
    have hlast : r.remaining - BitVec.ofNat 32 k ≠ 1#32 := by bv_omega
    rw [Function.iterate_succ_apply', ih (Nat.lt_of_succ_lt hk),
      Regs.advance_of_multiplying hne (fun h => hlast h.1), Function.iterate_succ_apply', BitVec.ofNat_add,
      ← sub_sub]

/-- From the last sample of a transition on, the block is at rest at TARGET (R56). Where no sample is taken, this needs that
VALUE was TARGET before. -/
theorem Regs.advance_iterate_of_remaining_le (hsnap : cfg.finalSnap = true) (k : Nat) (hk : r.remaining.toNat ≤ k)
    (hrest : k = 0 → r.value = r.target) :
    (Regs.advance cfg)^[k] r = { r with remaining := 0#32, value := r.target } := by
  induction k generalizing r with
  | zero =>
    obtain ⟨value, target, _, remaining, _, _⟩ := r
    obtain rfl : value = target := hrest rfl
    obtain rfl : remaining = 0#32 := BitVec.eq_of_toNat_eq (Nat.le_zero.1 hk)
    rfl
  | succ k ih =>
    rw [Function.iterate_succ_apply]
    by_cases hcomplete : r.remaining = 0#32
    · rw [Regs.advance_of_complete hcomplete, ih (by bv_omega) (fun _ => rfl)]
    by_cases hlast : r.remaining = 1#32
    · rw [Regs.advance_of_last hlast hsnap, ih (by simp) (fun _ => rfl)]
    · rw [Regs.advance_of_multiplying hcomplete (fun h => hlast h.1), ih (by bv_omega) (by bv_omega)]

/-! ## Runs -/

theorem runCommands_append (is js : List Instr) (s : State) :
    runCommands (is ++ js) s = runCommands js (runCommands is s) := by
  induction is generalizing s with
  | nil => rfl
  | cons i is ih =>
    rw [List.cons_append, runCommands_cons (exec_eq_afterCommand i s), runCommands_cons (exec_eq_afterCommand i s), ih]

theorem runCommands_cfg (is : List Instr) (s : State) : (runCommands is s).cfg = s.cfg := by
  induction is generalizing s with
  | nil => rfl
  | cons i is ih => rw [runCommands_cons (exec_eq_afterCommand i s), ih, State.afterCommand_cfg]

theorem runCommands_steps_regs (k : Nat) (s : State) :
    (runCommands (List.replicate k .step) s).regs = (Regs.advance s.cfg)^[k] s.regs := by
  induction k generalizing s with
  | zero => rfl
  | succ k ih =>
    rw [List.replicate_succ, runCommands_cons (exec_eq_afterCommand .step s), ih]
    rfl

/-- The last of at least one STEP returns the VALUE that it leaves. -/
theorem runCommands_steps_response {k : Nat} (hk : 1 ≤ k) (s : State) :
    (runCommands (List.replicate k .step) s).response =
      some ⟨.sample, ((Regs.advance s.cfg)^[k] s.regs).value⟩ := by
  induction k, hk using Nat.le_induction generalizing s with
  | base => rfl
  | succ k _ ih =>
    rw [List.replicate_succ, runCommands_cons (exec_eq_afterCommand .step s), ih]
    rfl

/-- Settles O38: the registers after k samples, before the end of the transition and from it on. -/
theorem transitionClosedForm : Obligations.TransitionClosedForm := by
  intro s k hsnap hk
  dsimp only
  rw [runCommands_steps_regs, runCommands_steps_response hk]
  constructor
  · intro hlt
    rw [Regs.advance_iterate_of_lt k hlt]
    exact ⟨rfl, by bv_omega⟩
  · intro hle
    rw [Regs.advance_iterate_of_remaining_le hsnap k hle (by omega)]
    exact ⟨rfl, rfl⟩

/-! ## A whole transition -/

/-- SET_DURATION n and SET_TARGET x start a transition of n samples to x; with n = 0 they jump to x (R64, R65). -/
theorem Regs.after_setDuration_setTarget {x : F32} (hpos : F32.lt 0#32 x = true) (hx : cfg.inRange x = true) (n : Word) :
    ((r.after cfg (.setDuration n)).after cfg (.setTarget x)).target = x ∧
      ((r.after cfg (.setDuration n)).after cfg (.setTarget x)).remaining = n ∧
      (n = 0#32 → ((r.after cfg (.setDuration n)).after cfg (.setTarget x)).value = x) := by
  rw [Regs.after, Regs.after, Config.sanitize_of_inRange hpos hx]
  refine ⟨Regs.retarget_target .., Regs.retarget_remaining .., ?_⟩
  rintro rfl
  exact congrArg Regs.value (Regs.retarget_of_duration_zero rfl x)

/-- SET_DURATION n, SET_TARGET x and n STEPs leave the block at rest at x, for every n. -/
theorem runCommands_transition_settles {s : State} (hsnap : s.cfg.finalSnap = true) {x : F32}
    (hpos : F32.lt 0#32 x = true) (hx : s.cfg.inRange x = true) (n : Word) :
    let u := runCommands ([.setDuration n, .setTarget x] ++ List.replicate n.toNat .step) s
    u.regs.remaining = 0#32 ∧ u.regs.value = x ∧ u.regs.target = x := by
  dsimp only
  obtain ⟨htarget, hremaining, hjump⟩ := Regs.after_setDuration_setTarget (r := s.regs) hpos hx n
  rw [runCommands_append, runCommands_steps_regs, runCommands_cfg, runCommands_pair_regs,
    Regs.advance_iterate_of_remaining_le hsnap n.toNat (by rw [hremaining])
      (fun hn => (hjump (BitVec.eq_of_toNat_eq hn)).trans htarget.symm)]
  exact ⟨rfl, htarget, htarget⟩

/-- At rest every STEP returns TARGET. -/
theorem runCommands_steps_response_of_settled {s : State} (hrem : s.regs.remaining = 0#32)
    (hvalue : s.regs.value = s.regs.target) (m : Nat) :
    (runCommands (List.replicate (m + 1) .step) s).response = some ⟨.sample, s.regs.target⟩ := by
  rw [runCommands_steps_response (Nat.le_add_left 1 m), Function.iterate_fixed (Regs.advance_of_settled hrem hvalue),
    hvalue]

/-- Settles O39: the two writes start the transition (or jump, for N = 0), N STEPs settle it at 2.0, and there it stays. -/
theorem durationManyStepsReachTwo : Obligations.DurationManyStepsReachTwo := by
  intro s n hsnap hrange
  obtain ⟨hrem, hvalue, htarget⟩ := runCommands_transition_settles hsnap (by decide) hrange n
  refine ⟨hvalue, htarget, ⟨_, rfl, ?_⟩, fun m => ?_⟩
  · rw [State.answer_response, Regs.completeWord, Regs.isComplete, hrem]
    rfl
  · rw [runCommands_steps_response_of_settled hrem (hvalue.trans htarget.symm), htarget]

end Machine

end Sys2Proof
end

section
/-! SUPPORT. Sanitize (spec/41_control_writes.md R59, R60) in each of its branches, and the order of non-negative words by their
bits. -/

namespace Sys2Proof

/-! ## Comparisons by bits -/

/-- Words from +0 to +inf are ordered as their bit patterns are. -/
theorem F32.lt_iff_toNat_lt {a b : F32} (ha : a.toNat ≤ 0x7F800000) (hb : b.toNat ≤ 0x7F800000) :
    F32.lt a b = true ↔ a.toNat < b.toNat := by
  have hsa : signBit a = false := (signBit_eq_false_iff a).2 (by omega)
  have hsb : signBit b = false := (signBit_eq_false_iff b).2 (by omega)
  rw [F32.lt_iff, number_of_signBit hsa, number_of_signBit hsb, Int.ofNat_lt, units_of_signBit hsa,
    units_of_signBit hsb, valueOf_strictMono.lt_iff_lt]
  simp [isNaN_of_toNat_le, ha, hb]

theorem F32.le_iff_toNat_le {a b : F32} (ha : a.toNat ≤ 0x7F800000) (hb : b.toNat ≤ 0x7F800000) :
    F32.le a b = true ↔ a.toNat ≤ b.toNat := by
  rw [← F32.lt_eq_false_iff (isNaN_of_toNat_le hb) (isNaN_of_toNat_le ha), Bool.eq_false_iff, Ne,
    F32.lt_iff_toNat_lt hb ha, Nat.not_lt]

/-- What is greater than zero is no NaN and has a clear sign bit. -/
theorem toNat_le_of_zero_lt {w : F32} (h : F32.lt 0#32 w = true) : w.toNat ≤ 0x7F800000 := by
  obtain ⟨-, hnan, -⟩ := (F32.lt_iff _ _).1 h
  rwa [Bool.eq_false_iff, Ne, isNaN_iff, magnitudeBits_of_signBit (signBit_of_number_pos (number_pos_of_zero_lt h)),
    Nat.not_lt] at hnan

theorem F32.lt_of_lt_of_le {a b c : F32} (h : F32.lt a b = true) (h' : F32.le b c = true) : F32.lt a c = true := by
  obtain ⟨ha, -, hlt⟩ := (F32.lt_iff a b).1 h
  obtain ⟨-, hc, hle⟩ := (F32.le_iff b c).1 h'
  exact (F32.lt_iff a c).2 ⟨ha, hc, Int.lt_of_lt_of_le hlt hle⟩

/-! ## The branches -/

variable {cfg : Config} {w : F32}

/-- A NaN is not greater than zero either. -/
theorem Config.sanitize_of_not_pos (h : F32.lt 0#32 w = false) : cfg.sanitize w = (cfg.vMin, true) := by
  simp [Config.sanitize, h]

theorem Config.sanitize_of_lt_vMin (h : F32.lt w cfg.vMin = true) : cfg.sanitize w = (cfg.vMin, true) := by
  simp [Config.sanitize, h]

theorem Config.sanitize_of_vMax_lt (hl : cfg.legal = true) (h : F32.lt cfg.vMax w = true) :
    cfg.sanitize w = (cfg.vMax, true) := by
  obtain ⟨-, -, hpos, hle⟩ := Config.legal_range hl
  have hmin : F32.le cfg.vMin w = true := F32.le_trans hle (F32.le_of_lt h)
  obtain ⟨-, hnan, -⟩ := (F32.lt_iff _ _).1 h
  simp [Config.sanitize, hnan, F32.lt_of_lt_of_le hpos hmin, F32.lt_eq_false_of_le hmin, h]

/-- What is no number of the range is not greater than zero, below V_MIN or above V_MAX. -/
theorem Config.sanitize_clamps (hl : cfg.legal = true) (hout : cfg.inRange w = false) : (cfg.sanitize w).2 = true := by
  cases hpos : F32.lt 0#32 w with
  | false => rw [Config.sanitize_of_not_pos hpos]
  | true =>
    obtain ⟨-, hnan, -⟩ := (F32.lt_iff _ _).1 hpos
    rcases Config.range_cases hl hnan with h | h | h
    · rw [Config.sanitize_of_lt_vMin h]
    · rw [Config.sanitize_of_vMax_lt hl h]
    · rw [h] at hout
      cases hout

theorem Config.zero_lt_of_inRange (hl : cfg.legal = true) (hw : cfg.inRange w = true) : F32.lt 0#32 w = true := by
  obtain ⟨-, -, hpos, -⟩ := Config.legal_range hl
  obtain ⟨hmin, -⟩ := (cfg.inRange_iff w).1 hw
  exact F32.lt_of_lt_of_le hpos hmin

/-- Settles O42, for the operands in the range and those that are not. -/
theorem sanitizeGivesLegalValue : Obligations.SanitizeGivesLegalValue := fun _ w hl =>
  ⟨Config.sanitize_inRange hl w, fun hw => Config.sanitize_of_inRange (Config.zero_lt_of_inRange hl hw) hw,
    Config.sanitize_clamps hl⟩

/-- The spec's default range is the finite positive normal numbers. -/
theorem Config.specDefault_inRange_iff (w : F32) :
    Config.specDefault.inRange w = true ↔ 0x00800000 ≤ w.toNat ∧ w.toNat ≤ 0x7F7FFFFF := by
  have hl : Config.specDefault.legal = true := by decide
  constructor
  · intro hw
    have hbits := toNat_le_of_zero_lt (Config.zero_lt_of_inRange hl hw)
    rw [Config.inRange_iff] at hw
    rwa [F32.le_iff_toNat_le (by decide) hbits, F32.le_iff_toNat_le hbits (by decide)] at hw
  · rintro ⟨hmin, hmax⟩
    have hbits : w.toNat ≤ 0x7F800000 := by omega
    rw [Config.inRange_iff, F32.le_iff_toNat_le (by decide) hbits, F32.le_iff_toNat_le hbits (by decide)]
    exact ⟨hmin, hmax⟩

/-- Settles O41: the range by bit patterns, +inf above it; any other word is below it or not greater than zero. -/
theorem sanitizeByBitPattern : Obligations.SanitizeByBitPattern := by
  intro w
  have hl : Config.specDefault.legal = true := by decide
  split
  · next hrange =>
    rw [← Config.specDefault_inRange_iff] at hrange
    exact Config.sanitize_of_inRange (Config.zero_lt_of_inRange hl hrange) hrange
  · next hout =>
    split
    · next hinf =>
      obtain rfl : w = 0x7F800000#32 := BitVec.eq_of_toNat_eq hinf
      exact Config.sanitize_of_vMax_lt hl (by decide)
    · next hne =>
      cases hpos : F32.lt 0#32 w with
      | false => exact Config.sanitize_of_not_pos hpos
      | true =>
        have hbits := toNat_le_of_zero_lt hpos
        refine Config.sanitize_of_lt_vMin ((F32.lt_iff_toNat_lt hbits (by decide)).2 ?_)
        have hmin : Config.specDefault.vMin.toNat = 0x00800000 := rfl
        omega

end Sys2Proof
end

section
/-! SUPPORT. The control writes SET_TARGET, SET_DURATION and INIT at the machine (spec/41_control_writes.md R61, R64 to R66). -/

namespace Sys2Proof.Machine

/-- Settles O22: every arm of `exec` is a reply on the instruction's own port. -/
theorem everyCommandCompletes : Obligations.EveryCommandCompletes := exec_eq_reply

/-- SET_TARGET answers the registers that it leaves, with the response 0. -/
theorem exec_setTarget_of_after {s : State} {t : F32} {r : Regs} (h : s.regs.after s.cfg (.setTarget t) = r) :
    exec (.setTarget t) s = .next (s.reply .control r 0#32) := by
  rw [← h]
  rfl

/-- Settles O2: only port C accepts 0x02, and each clause on SET_TARGET is a branch of R64. -/
theorem setTargetStartsTransition : Obligations.SetTargetStartsTransition := by
  intro s t
  refine ⟨decode_of_accepts (by decide) t, decode_of_not_accepts (by decide) t, fun hd => ?_, fun hd => ?_⟩
  · refine exec_setTarget_of_after ?_
    simp [Regs.after, Regs.retarget_of_duration_zero, Regs.recordDegenerate, hd]
  · refine exec_setTarget_of_after ?_
    simp [Regs.after, Regs.retarget_of_duration_ne_zero, Regs.recordDegenerate, hd]

/-- Settles O3: only port C accepts 0x03; SET_DURATION writes one field. -/
theorem setDurationWritesDuration : Obligations.SetDurationWritesDuration :=
  fun _ n => ⟨decode_of_accepts (by decide) n, decode_of_not_accepts (by decide) n, rfl⟩

/-- Settles O4: only port C accepts 0x04; INIT has one branch. -/
theorem initSetsValueAndTarget : Obligations.InitSetsValueAndTarget :=
  fun _ v => ⟨decode_of_accepts (by decide) v, decode_of_not_accepts (by decide) v, rfl⟩

/-! ## SET_DURATION and STEP in either order -/

/-- R55 does not read DURATION. -/
theorem Regs.advance_with_duration (cfg : Config) (r : Regs) (n : Word) :
    Regs.advance cfg { r with duration := n } = { r.advance cfg with duration := n } := by
  unfold Regs.advance
  dsimp only
  split
  · rfl
  · split <;> rfl

theorem runCommands_setDuration_step_regs (s : State) (n : Word) :
    (runCommands [.setDuration n, .step] s).regs = (runCommands [.step, .setDuration n] s).regs := by
  rw [runCommands_pair_regs, runCommands_pair_regs]
  exact Regs.advance_with_duration s.cfg s.regs n

/-- After two commands, and one more that replaces the response, the state depends on the registers that the two left. -/
theorem runCommands_pair_then (i j k : Instr) (s : State) :
    runCommands [i, j, k] s = State.afterCommand { s with regs := (runCommands [i, j] s).regs } k := by
  rw [runCommands_cons (exec_eq_afterCommand i s), runCommands_pair, runCommands_pair]
  rfl

/-- Settles O36: STEP and SET_DURATION leave the same registers in either order, and SET_TARGET's response is the last. -/
theorem setDurationCommutesWithStep : Obligations.SetDurationCommutesWithStep := by
  intro s n w
  have hregs := runCommands_setDuration_step_regs s n
  exact ⟨hregs, by rw [runCommands_pair_then, runCommands_pair_then, hregs]⟩

end Sys2Proof.Machine
end

section
/-! SUPPORT. The default DeltaFn is the exact N-th root of t / v, rounded once (spec/41_control_writes.md R63). -/

namespace Sys2Proof

/-! ## Bounds on what rne32 gives -/

variable {r : Cut} {p : Nat} {f : Nat → Nat}

/-- A real that is at least a finite word rounds to that word or above it. -/
theorem le_rne32_of_le (h : r.ComparesBy p f) (hf : StrictMono f) {w : Nat} (hw : w < 0x7F800000)
    (hp : f (2 * valueOf w) ≤ p) : w ≤ (rne32 r).toNat := by
  by_contra hlt
  have hvalue := valueOf_strictMono (Nat.lt_of_not_le hlt)
  have hmiddle := (rne32_middle_above h hf.monotone (Nat.lt_of_not_le hlt) hw).1
  have hbelow := hf (a := valueOf w + valueOf (rne32 r).toNat) (b := 2 * valueOf w) (by omega)
  omega

/-- A real below the middle of a finite word and the next rounds to that word or below it. -/
theorem rne32_le_of_lt_middle (h : r.ComparesBy p f) (hf : Monotone f) {w : Nat} (hw : w < 0x7F7FFFFF)
    (hp : p < f (valueOf w + valueOf (w + 1))) : (rne32 r).toNat ≤ w := by
  have hself : valueOf w ≤ valueOf 0x7F7FFFFF := valueOf_strictMono.monotone hw.le
  have hsucc : valueOf (w + 1) ≤ valueOf 0x7F7FFFFF := valueOf_strictMono.monotone hw
  have hlast : f (valueOf w + valueOf (w + 1)) ≤ f (2 * valueOf 0x7F7FFFFF) := hf (by omega)
  by_contra hgt
  have hmiddle := (rne32_middle_below h hf (Nat.lt_of_not_le hgt) (rne32_finite h (by omega))).1
  have hnext : f (valueOf w + valueOf (w + 1)) ≤ f (valueOf w + valueOf (rne32 r).toNat) :=
    hf (Nat.add_le_add_left (valueOf_strictMono.monotone (Nat.lt_of_not_le hgt)) _)
  omega

theorem rne32_eq_infinity_iff (h : r.ComparesBy p f) (hf : Monotone f) :
    (rne32 r).toNat = 0x7F800000 ↔ f (2 * valueOf 0x7F7FFFFF) < p := by
  refine ⟨fun hinf => ?_, fun hp => by rw [rne32_overflow h hf hp]; rfl⟩
  by_contra hp
  have := rne32_finite h (Nat.le_of_not_lt hp)
  omega

/-! ## The root by N-th powers -/

/-- v · x^n, which the root of t / v compares with t · 2^(150 n): x is in half units of 2^-149. -/
def rootPower (v : F32) (n x : Nat) : Nat := x ^ n * units v

theorem rootCutExact_comparesBy (v t : F32) (n : Nat) :
    (rootCutExact v t n).ComparesBy (units t * 2 ^ (150 * n)) (rootPower v n) := by
  intro m e
  have htarget : significand (magnitudeBits t) * 2 ^ (scale (magnitudeBits t) + 150 * n) = units t * 2 ^ (150 * n) := by
    rw [units_eq_valueOf, valueOf, Nat.pow_add, Nat.mul_assoc]
  have hvalue : significand (magnitudeBits v) * m ^ n * 2 ^ (scale (magnitudeBits v) + e * n) =
      rootPower v n (m * 2 ^ e) := by
    rw [rootPower, units_eq_valueOf, valueOf, Nat.mul_pow, ← Nat.pow_mul, Nat.pow_add]
    ring
  rw [rootCutExact, compareDyadic_eq, Nat.pow_eq, htarget, hvalue]

theorem rootPower_strictMono {v : F32} {n : Nat} (hv : 0 < units v) (hn : n ≠ 0) : StrictMono (rootPower v n) :=
  fun _ _ h => Nat.mul_lt_mul_of_pos_right (Nat.pow_lt_pow_left h hn) hv

variable {v t : F32} {n : Word}

/-- The default DeltaFn rounds the real that t · 2^(150 N) is compared for. -/
theorem rootDelta_comparesBy (v t : F32) (n : Word) :
    ∃ r, rootDelta v t n = rne32 r ∧ r.ComparesBy (units t * 2 ^ (150 * n.toNat)) (rootPower v n.toNat) :=
  ⟨_, rootDelta_eq v t n, rootCutExact_comparesBy v t n.toNat⟩

theorem rootDelta_toNat_le (v t : F32) (n : Word) : (rootDelta v t n).toNat ≤ 0x7F800000 := (rne32_spec _).2.2

theorem Config.deltaFn_of_correctlyRounded {cfg : Config} (hdelta : cfg.delta = .correctlyRounded)
    (hv : cfg.inRange v = true) (ht : cfg.inRange t = true) (hn : n ≠ 0#32) : cfg.deltaFn v t n = rootDelta v t n := by
  rw [Config.deltaFn, if_pos (by simp [hv, ht, hn]), hdelta]

/-! ## Between the middles to the neighbours -/

theorem units_of_toNat_eq {w : F32} {k : Nat} (h : w.toNat = k) (hk : k < 0x80000000) : units w = valueOf k := by
  rw [units_of_signBit ((signBit_eq_false_iff w).2 (by omega)), h]

/-- Settles O47: `rne32_middle_below` and `rne32_middle_above` at the two neighbours, for the comparison by N-th powers. -/
theorem defaultDeltaIsRoundedRoot : Obligations.DefaultDeltaIsRoundedRoot := by
  intro cfg v t n hl hdelta hv ht hn
  dsimp only
  rw [Config.deltaFn_of_correctlyRounded hdelta hv ht hn]
  obtain ⟨-, hpos, -, -⟩ := Config.inRange_units hl hv
  have hf := (rootPower_strictMono hpos (n := n.toNat) (by bv_omega)).monotone
  obtain ⟨r, hroot, hr⟩ := rootDelta_comparesBy v t n
  have hself : units (rne32 r) = valueOf (rne32 r).toNat := units_of_signBit (signBit_rne32 r)
  have hmax : units 0x7F7FFFFF#32 = valueOf 0x7F7FFFFF := units_of_toNat_eq rfl (by decide)
  rw [hroot, hself, hmax]
  refine ⟨(rne32_spec r).2.2, fun hzero hfinite => ?_, fun hfinite => ?_, rne32_eq_infinity_iff hr hf⟩
  · have hbelow : (rne32 r - 1#32).toNat = (rne32 r).toNat - 1 := by bv_omega
    rw [units_of_toNat_eq hbelow (by omega)]
    exact rne32_middle_below hr hf (by omega) hfinite
  · have habove : (rne32 r + 1#32).toNat = (rne32 r).toNat + 1 := by bv_omega
    rw [units_of_toNat_eq habove (by omega), Nat.add_comm (valueOf _), eq_comm (a := units t * _)]
    exact rne32_middle_above hr hf (Nat.lt_succ_self _) (by omega)

end Sys2Proof
end

section
/-! SUPPORT. DELTA against 1.0: the properties P1 to P3 of every DeltaFn (spec/41_control_writes.md R63). -/

namespace Sys2Proof

variable {v t : F32} {n : Word}

theorem two_mul_valueOf_one : 2 * valueOf one.toNat = 2 ^ 150 := by decide

theorem rootPower_unit (v : F32) (n : Nat) : rootPower v n (2 ^ 150) = units v * 2 ^ (150 * n) := by
  rw [rootPower, ← Nat.pow_mul, Nat.mul_comm]

theorem one_le_rootDelta (hv : 0 < units v) (hn : n ≠ 0#32) (hle : units v ≤ units t) :
    one.toNat ≤ (rootDelta v t n).toNat := by
  obtain ⟨r, hroot, hr⟩ := rootDelta_comparesBy v t n
  rw [hroot]
  refine le_rne32_of_le hr (rootPower_strictMono hv (by bv_omega)) (by decide) ?_
  rw [two_mul_valueOf_one, rootPower_unit]
  exact Nat.mul_le_mul_right _ hle

theorem rootDelta_le_one (hv : 0 < units v) (hn : n ≠ 0#32) (hle : units t ≤ units v) :
    (rootDelta v t n).toNat ≤ one.toNat := by
  obtain ⟨r, hroot, hr⟩ := rootDelta_comparesBy v t n
  have hf := rootPower_strictMono hv (n := n.toNat) (by bv_omega)
  rw [hroot]
  refine rne32_le_of_lt_middle hr hf.monotone (by decide) ?_
  calc units t * 2 ^ (150 * n.toNat) ≤ units v * 2 ^ (150 * n.toNat) := Nat.mul_le_mul_right _ hle
    _ = rootPower v n.toNat (2 ^ 150) := (rootPower_unit v n.toNat).symm
    _ < rootPower v n.toNat (valueOf one.toNat + valueOf (one.toNat + 1)) := hf (by decide)

/-- P1 to P3 of R63, as `deltaConforms` checks them. -/
theorem deltaConforms_iff (v t d : F32) :
    deltaConforms v t d = true ↔ isNaN d = false ∧ F32.lt d 0#32 = false ∧ (F32.eq t v = true → d = one) ∧
      (F32.lt v t = true → F32.le one d = true) ∧ (F32.lt t v = true → F32.le d one = true) := by
  simp [deltaConforms, and_assoc, imp_iff_not_or]

theorem deltaConforms_rootDelta {cfg : Config} (hl : cfg.legal = true) (hv : cfg.inRange v = true)
    (ht : cfg.inRange t = true) (hn : n ≠ 0#32) : deltaConforms v t (rootDelta v t n) = true := by
  obtain ⟨hsv, hpos, -, -⟩ := Config.inRange_units hl hv
  obtain ⟨hst, -, -, -⟩ := Config.inRange_units hl ht
  have hbits := rootDelta_toNat_le v t n
  rw [deltaConforms_iff, F32.le_iff_toNat_le (by decide) hbits, F32.le_iff_toNat_le hbits (by decide), F32.lt_iff,
    F32.lt_iff, number_of_signBit hsv, number_of_signBit hst]
  refine ⟨isNaN_of_toNat_le hbits, lt_zero_of_signBit (signBit_rne32 _), fun heq => ?_, fun ⟨_, _, hup⟩ => ?_,
    fun ⟨_, _, hdown⟩ => ?_⟩
  · obtain ⟨-, hsame⟩ : _ ∧ units t = units v := by simpa [F32.eq, number_of_signBit, hsv, hst] using heq
    exact BitVec.eq_of_toNat_eq (le_antisymm (rootDelta_le_one hpos hn hsame.le) (one_le_rootDelta hpos hn hsame.ge))
  · exact one_le_rootDelta hpos hn (by omega)
  · exact rootDelta_le_one hpos hn (by omega)

/-- An implementation's DeltaFn is held to P1 to P3, and the default has them. -/
theorem Config.deltaConforms_deltaFn {cfg : Config} (hl : cfg.legal = true) (hv : cfg.inRange v = true)
    (ht : cfg.inRange t = true) (hn : n ≠ 0#32) : deltaConforms v t (cfg.deltaFn v t n) = true := by
  rcases cfg.deltaFn_cases hv ht hn with hroot | hconforms
  · rw [hroot]
    exact deltaConforms_rootDelta hl hv ht hn
  · exact hconforms

/-- Settles O46: the configured DeltaFn passes the check of P1 to P3, and a number is equal to itself. -/
theorem deltaFnHasItsProperties : Obligations.DeltaFnHasItsProperties := by
  intro cfg v t n hl hv ht hn
  obtain ⟨hnan, hnonneg, hequal, hup, hdown⟩ := (deltaConforms_iff _ _ _).1 (Config.deltaConforms_deltaFn hl hv ht hn)
  refine ⟨hnan, hnonneg, ?_, hup, hdown⟩
  rintro rfl
  exact hequal (by simp [F32.eq, isNaN_of_isFinite (Config.isFinite_of_inRange hl ht)])

end Sys2Proof
end

section
/-! SUPPORT. The default DeltaFn on the spec's default range (spec/41_control_writes.md R63, R64). -/

namespace Sys2Proof

variable {v t : F32} {n : Word}

/-! ## Ratios of the range -/

theorem Config.specDefault_units_pos {x : F32} (hx : Config.specDefault.inRange x = true) : 0 < units x :=
  have ⟨_, hpos, _, _⟩ := Config.inRange_units (by decide) hx
  hpos

/-- The greatest ratio of two words of the range is below 2^254. -/
theorem Config.specDefault_ratio (hv : Config.specDefault.inRange v = true) (ht : Config.specDefault.inRange t = true) :
    units t ≤ 2 ^ 254 * units v := by
  obtain ⟨hsv, -, -, -⟩ := Config.inRange_units (by decide) hv
  obtain ⟨hst, -, -, -⟩ := Config.inRange_units (by decide) ht
  obtain ⟨hvmin, -⟩ := (Config.specDefault_inRange_iff v).1 hv
  obtain ⟨-, htmax⟩ := (Config.specDefault_inRange_iff t).1 ht
  rw [units_of_signBit hsv, units_of_signBit hst]
  calc valueOf t.toNat ≤ valueOf 0x7F7FFFFF := valueOf_strictMono.monotone htmax
    _ ≤ 2 ^ 254 * valueOf 0x00800000 := by decide
    _ ≤ 2 ^ 254 * valueOf v.toNat := Nat.mul_le_mul_left _ (valueOf_strictMono.monotone hvmin)

/-- A word whose N-th power is at most the least ratio 2^-254 is at most the root. Twice its value is 2^a, which stands for
2^(a - 150). -/
theorem le_rootDelta_of_exponent (hpos : 0 < units v) (hratio : units v ≤ 2 ^ 254 * units t) (hn : n ≠ 0#32)
    {w a : Nat} (hw : w < 0x7F800000) (hvalue : 2 * valueOf w = 2 ^ a) (ha : a * n.toNat + 254 ≤ 150 * n.toNat) :
    w ≤ (rootDelta v t n).toNat := by
  obtain ⟨r, hroot, hr⟩ := rootDelta_comparesBy v t n
  rw [hroot]
  refine le_rne32_of_le hr (rootPower_strictMono hpos (by bv_omega)) hw ?_
  calc rootPower v n.toNat (2 * valueOf w) = 2 ^ (a * n.toNat) * units v := by rw [rootPower, hvalue, Nat.pow_mul]
    _ ≤ 2 ^ (a * n.toNat) * (2 ^ 254 * units t) := Nat.mul_le_mul_left _ hratio
    _ = units t * 2 ^ (a * n.toNat + 254) := by rw [Nat.pow_add, ← Nat.mul_assoc, Nat.mul_comm]
    _ ≤ units t * 2 ^ (150 * n.toNat) := Nat.mul_le_mul_left _ (Nat.pow_le_pow_right (by decide) ha)

/-- From N = 2 on the root of the greatest ratio 2^254 is at most 2^127. -/
theorem rootDelta_finite (hratio : units t ≤ 2 ^ 254 * units v) (hn : 2 ≤ n.toNat) :
    (rootDelta v t n).toNat < 0x7F800000 := by
  obtain ⟨r, hroot, hr⟩ := rootDelta_comparesBy v t n
  have hmax : 2 ^ 150 * 2 ^ 127 ≤ 2 * valueOf 0x7F7FFFFF := by decide
  rw [hroot]
  refine rne32_finite hr ?_
  calc units t * 2 ^ (150 * n.toNat) ≤ 2 ^ 254 * units v * 2 ^ (150 * n.toNat) := Nat.mul_le_mul_right _ hratio
    _ = 2 ^ (150 * n.toNat) * 2 ^ 254 * units v := by ac_rfl
    _ ≤ 2 ^ (150 * n.toNat) * 2 ^ (127 * n.toNat) * units v :=
        Nat.mul_le_mul_right _ (Nat.mul_le_mul_left _ (Nat.pow_le_pow_right (by decide) (by omega)))
    _ = (2 ^ 150 * 2 ^ 127) ^ n.toNat * units v := by rw [Nat.mul_pow, ← Nat.pow_mul, ← Nat.pow_mul]
    _ ≤ rootPower v n.toNat (2 * valueOf 0x7F7FFFFF) := Nat.mul_le_mul_right _ (Nat.pow_le_pow_left hmax _)

/-- Settles O48: 2^-127 and 2^-126 are the words 0x00400000 and 0x00800000. -/
theorem defaultDeltaStaysNormal : Obligations.DefaultDeltaStaysNormal := by
  intro v t n hv ht
  have hpos := Config.specDefault_units_pos hv
  have hfall := Config.specDefault_ratio ht hv
  have hrise := Config.specDefault_ratio hv ht
  have hroot : n ≠ 0#32 → Config.specDefault.deltaFn v t n = rootDelta v t n :=
    Config.deltaFn_of_correctlyRounded rfl hv ht
  constructor
  · rintro rfl
    rw [hroot (by decide)]
    exact ⟨le_rootDelta_of_exponent hpos hfall (by decide) (a := 23) (by decide) (by decide) (by decide),
      Nat.le_of_lt_succ (rootDelta_finite hrise (by decide))⟩
  · intro hn
    have hne : n ≠ 0#32 := by bv_omega
    rw [hroot hne]
    exact ⟨le_rootDelta_of_exponent hpos hfall hne (a := 24) (by decide) (by decide) (by omega),
      Nat.le_of_lt_succ (rootDelta_finite hrise (by omega))⟩

/-! ## Long transitions -/

/-- (1 + 1/a)^n is at least 2^k from n = k · a on, by Bernoulli's inequality for each factor 2. -/
theorem two_pow_mul_pow_le {a k n : Nat} (ha : 0 < a) (hn : k * a ≤ n) : 2 ^ k * a ^ n ≤ (a + 1) ^ n := by
  have hdouble : 2 * a ^ a ≤ (a + 1) ^ a := by
    have hbernoulli := pow_add_mul_le_add_pow_of_sq_nonneg (a := a) (b := 1) (by omega) (by omega) (by omega) (by omega) a
    rwa [Nat.cast_id, Nat.mul_one, ← Nat.pow_succ', Nat.succ_eq_add_one, Nat.sub_add_cancel ha, ← Nat.two_mul]
      at hbernoulli
  obtain ⟨m, rfl⟩ := Nat.exists_eq_add_of_le hn
  calc 2 ^ k * a ^ (k * a + m) = (2 * a ^ a) ^ k * a ^ m := by
        rw [Nat.mul_pow, ← Nat.pow_mul, Nat.mul_comm a k, Nat.pow_add, Nat.mul_assoc]
    _ ≤ ((a + 1) ^ a) ^ k * (a + 1) ^ m :=
        Nat.mul_le_mul (Nat.pow_le_pow_left hdouble k) (Nat.pow_le_pow_left (Nat.le_succ a) m)
    _ = (a + 1) ^ (k * a + m) := by rw [← Nat.pow_mul, Nat.mul_comm a k, Nat.pow_add]

/-- The middle of 1.0 and the next word is 1 + 2^-24, whose N-th power is above every ratio of the range. -/
theorem rootDelta_le_one_of_long (hpos : 0 < units v) (hratio : units t ≤ 2 ^ 254 * units v)
    (hn : 255 * 2 ^ 24 ≤ n.toNat) : (rootDelta v t n).toNat ≤ one.toNat := by
  obtain ⟨r, hroot, hr⟩ := rootDelta_comparesBy v t n
  have hmiddle : valueOf one.toNat + valueOf (one.toNat + 1) = 2 ^ 126 * (2 ^ 24 + 1) := by decide
  rw [hroot]
  refine rne32_le_of_lt_middle hr (rootPower_strictMono hpos (by omega)).monotone (by decide) ?_
  rw [hmiddle]
  generalize n.toNat = k at hn ⊢
  have hunit : 2 ^ (150 * k) = (2 ^ 126) ^ k * (2 ^ 24) ^ k := by rw [Nat.pow_mul, ← Nat.mul_pow, ← Nat.pow_add]
  calc units t * 2 ^ (150 * k) ≤ 2 ^ 254 * units v * 2 ^ (150 * k) := Nat.mul_le_mul_right _ hratio
    _ < 2 ^ 255 * units v * 2 ^ (150 * k) := Nat.mul_lt_mul_of_pos_right (by omega) (by positivity)
    _ = (2 ^ 126) ^ k * (2 ^ 255 * (2 ^ 24) ^ k) * units v := by rw [hunit]; ac_rfl
    _ ≤ (2 ^ 126) ^ k * (2 ^ 24 + 1) ^ k * units v :=
        Nat.mul_le_mul_right _ (Nat.mul_le_mul_left _ (two_pow_mul_pow_le (by decide) hn))
    _ = rootPower v k (2 ^ 126 * (2 ^ 24 + 1)) := by rw [rootPower, Nat.mul_pow]

/-- Settles O49: 2^32 - 1 is one less than 256 · 2^24, and 1.0 is a lower bound for a rising ratio. -/
theorem longestRisingTransitionHasUnitDelta : Obligations.LongestRisingTransitionHasUnitDelta := by
  intro v t hv ht hle
  have hpos := Config.specDefault_units_pos hv
  obtain ⟨hsv, -, -, -⟩ := Config.inRange_units (by decide) hv
  obtain ⟨hst, -, -, -⟩ := Config.inRange_units (by decide) ht
  obtain ⟨-, -, hrising⟩ := (F32.le_iff v t).1 hle
  rw [number_of_signBit hsv, number_of_signBit hst, Int.ofNat_le] at hrising
  rw [Config.deltaFn_of_correctlyRounded rfl hv ht (by decide)]
  exact BitVec.eq_of_toNat_eq (le_antisymm
    (rootDelta_le_one_of_long hpos (Config.specDefault_ratio hv ht) (by decide))
    (one_le_rootDelta hpos (by decide) hrising))

end Sys2Proof
end

section
/-! SUPPORT. The reads at the machine: a register, or a word made of REMAINING and DEGEN, as response, and no register written
(spec/42_reads.md R68 to R75). -/

namespace Sys2Proof.Machine

/-- Settles O30: the control writes return 0 on port C, and a command that is neither one of them nor STEP keeps every register. -/
theorem onlyStepReturnsAndChanges : Obligations.OnlyStepReturnsAndChanges := by
  intro i s
  refine ⟨_, exec_eq_afterCommand i s, fun hstep hregs => ?_⟩
  cases i with
  | step => exact absurd rfl hstep
  | setTarget _ | setDuration _ | init _ => rfl
  | _ => exact absurd rfl hregs

/-! ## Reads of a register -/

/-- The reads that R49 lists for both ports: port S's opcodes after STEP, and the first of port C's after its three writes. -/
theorem accepts_of_shared_read {op : Opcode} (h : op ∈ [0x05#8, 0x06#8, 0x07#8, 0x08#8]) (p : Port) :
    accepts p op = true := by
  cases p with
  | sample => exact (accepts_sample_iff op).2 (List.mem_cons_of_mem _ h)
  | control => exact (accepts_control_iff op).2 (List.mem_of_mem_drop (i := 3) (List.mem_append_left _ h))

/-- Settles O5: both ports accept the reads of VALUE and TARGET, port C alone those of its own registers. -/
theorem registerReadsReturnRegister : Obligations.RegisterReadsReturnRegister := fun _ p x =>
  ⟨⟨decode_of_accepts (accepts_of_shared_read (by decide) p) x, rfl⟩,
   ⟨decode_of_accepts (accepts_of_shared_read (by decide) p) x, rfl⟩,
   ⟨decode_of_accepts (by decide) x, decode_of_not_accepts (by decide) x, rfl⟩,
   ⟨decode_of_accepts (by decide) x, decode_of_not_accepts (by decide) x, rfl⟩,
   ⟨decode_of_accepts (by decide) x, decode_of_not_accepts (by decide) x, rfl⟩⟩

/-! ## The words of COMPLETE and READ_STATUS (R70, R71) -/

theorem Regs.isComplete_iff (r : Regs) : r.isComplete = true ↔ r.remaining.toNat = 0 := by
  rw [Regs.isComplete, beq_iff_eq, ← BitVec.toNat_inj, BitVec.toNat_zero]

theorem Regs.completeWord_eq_ite (r : Regs) : r.completeWord = if r.remaining.toNat = 0 then 1#32 else 0#32 := by
  simp only [Regs.completeWord, ← r.isComplete_iff]
  cases r.isComplete <;> rfl

/-- The two bits of STATUS as a number: DEGEN counts 2, COMPLETE counts 1. -/
theorem Regs.statusWord_eq_ofNat (r : Regs) :
    r.statusWord = BitVec.ofNat 32 ((if r.degen then 2 else 0) + (if r.remaining.toNat = 0 then 1 else 0)) := by
  simp only [Regs.statusWord, ← r.isComplete_iff]
  cases r.degen <;> cases r.isComplete <;> rfl

/-- Settles O6: both ports accept 0x07, and COMPLETE answers the word of R70. -/
theorem completeReportsSettled : Obligations.CompleteReportsSettled := by
  refine fun s p x => ⟨decode_of_accepts (accepts_of_shared_read (by decide) p) x, ?_⟩
  rw [← Regs.completeWord_eq_ite]
  rfl

/-- Settles O7: both ports accept 0x08, and READ_STATUS answers the word of R71. -/
theorem readStatusReturnsStatusWord : Obligations.ReadStatusReturnsStatusWord := by
  refine fun s p x => ⟨decode_of_accepts (accepts_of_shared_read (by decide) p) x, ?_⟩
  rw [← Regs.statusWord_eq_ofNat]
  rfl

end Sys2Proof.Machine
end

section
/-! SUPPORT. The one error condition and the one counter (spec/60_exceptions.md R76, R84): which commands set DEGEN, and how
REMAINING moves; and the block that nothing reaches (R88). -/

namespace Sys2Proof

/-- The four causes of DegenerateTransition (R76) are those of Sanitize's clamp (R59), whatever the configuration. -/
theorem Config.sanitize_clamped_iff (cfg : Config) (w : F32) :
    (cfg.sanitize w).2 = true ↔
      isNaN w = true ∨ F32.lt 0#32 w = false ∨ F32.lt w cfg.vMin = true ∨ F32.lt cfg.vMax w = true := by
  unfold Config.sanitize
  split
  · next hnumber =>
    rw [Bool.or_eq_true, Bool.not_eq_true'] at hnumber
    exact iff_of_true rfl (hnumber.imp_right .inl)
  · next hnumber =>
    split
    · next hlow => simp [hlow]
    · next hlow =>
      split
      · next hhigh => simp [hhigh]
      · next hhigh => simpa [hlow, hhigh] using hnumber

namespace Machine

/-- Settles O17: with no input a step is the idle step. -/
theorem idleBlockKeepsState : Obligations.IdleBlockKeepsState := step_nil

/-! ## DEGEN -/

/-- SET_TARGET and INIT set DEGEN where Sanitize clamps their operand and keep it otherwise; every other command keeps it. -/
theorem Regs.after_degen_iff (cfg : Config) (r : Regs) (i : Instr) :
    (r.after cfg i).degen = true ↔
      r.degen = true ∨ ∃ w, (i = .setTarget w ∨ i = .init w) ∧ (cfg.sanitize w).2 = true := by
  cases i with
  | setTarget w | init w => simp [Regs.after]
  | _ => simp [Regs.after]

/-- Settles O31: a command sets DEGEN where Sanitize clamps its operand. -/
theorem degenRecordsDegenerateOperands : Obligations.DegenRecordsDegenerateOperands := by
  intro i s
  refine ⟨_, exec_eq_afterCommand i s, ?_⟩
  simp only [← Config.sanitize_clamped_iff]
  exact Regs.after_degen_iff s.cfg s.regs i

/-! ## REMAINING -/

/-- A sample takes one from REMAINING, which stays 0 at 0 as the subtraction on numbers does. -/
theorem Regs.advance_remaining_toNat (cfg : Config) (r : Regs) :
    (r.advance cfg).remaining.toNat = r.remaining.toNat - 1 := by
  by_cases hcomplete : r.remaining = 0#32
  · simp [Regs.advance_of_complete, hcomplete]
  by_cases hlast : r.remaining = 1#32 ∧ cfg.finalSnap = true
  · simp [Regs.advance_of_last, hlast]
  · rw [Regs.advance_of_multiplying hcomplete hlast]
    bv_omega

theorem Regs.after_remaining_le (cfg : Config) (r : Regs) {i : Instr} (h : ∀ w, i ≠ .setTarget w) :
    (r.after cfg i).remaining.toNat ≤ r.remaining.toNat := by
  cases i with
  | step => exact (Regs.advance_remaining_toNat cfg r).trans_le (Nat.sub_le _ 1)
  | setTarget w => exact absurd rfl (h w)
  | init v => exact Nat.zero_le _
  | _ => exact le_rfl

/-- Settles O32: STEP takes one, SET_TARGET loads DURATION, INIT zeroes, and every other command keeps REMAINING. -/
theorem remainingCountsDown : Obligations.RemainingCountsDown := by
  intro i s
  refine ⟨_, exec_eq_afterCommand i s, ?_, ?_, ?_, Regs.after_remaining_le s.cfg s.regs⟩
  · rintro rfl
    exact Regs.advance_remaining_toNat s.cfg s.regs
  · rintro ⟨w, rfl⟩
    exact Regs.retarget_remaining (s.regs.recordDegenerate (s.cfg.sanitize w).2) s.cfg (s.cfg.sanitize w).1
  · rintro ⟨v, rfl⟩
    rfl

end Machine

end Sys2Proof
end

section
/-! SUPPORT. The order of SET_DURATION and SET_TARGET, and targets written before the last has settled
(spec/70_reset_and_hazards.md R94, R97). -/

namespace Sys2Proof.Machine

/-- R64 in both branches: a jump leaves REMAINING at DURATION too, which is then 0. -/
@[simp] theorem Regs.after_setTarget_remaining (cfg : Config) (r : Regs) (w : F32) :
    (r.after cfg (.setTarget w)).remaining = r.duration :=
  Regs.retarget_remaining (r.recordDegenerate (cfg.sanitize w).2) cfg (cfg.sanitize w).1

@[simp] theorem Regs.after_setTarget_duration (cfg : Config) (r : Regs) (w : F32) :
    (r.after cfg (.setTarget w)).duration = r.duration :=
  Regs.retarget_duration (r.recordDegenerate (cfg.sanitize w).2) cfg (cfg.sanitize w).1

/-- Settles O37: SET_TARGET loads the DURATION that it finds, and SET_DURATION writes DURATION alone. -/
theorem durationIsWrittenBeforeTarget : Obligations.DurationIsWrittenBeforeTarget := by
  intro s n w
  rw [runCommands_pair_regs, runCommands_pair_regs]
  refine ⟨?_, ?_, rfl⟩
  · exact Regs.after_setTarget_remaining s.cfg (s.regs.after s.cfg (.setDuration n)) w
  · exact Regs.after_setTarget_remaining s.cfg s.regs w

/-- A SET_TARGET and fewer than DURATION samples after it: the transition is still running, and DURATION is what it was. -/
theorem runCommands_setTarget_steps_running {s : State} (w : F32) {k : Nat} (hk : k < s.regs.duration.toNat) :
    (runCommands (.setTarget w :: List.replicate k .step) s).regs.remaining ≠ 0#32 ∧
      (runCommands (.setTarget w :: List.replicate k .step) s).regs.duration = s.regs.duration := by
  have hstarted : k < (s.regs.after s.cfg (.setTarget w)).remaining.toNat := by
    rwa [Regs.after_setTarget_remaining]
  rw [runCommands_cons (exec_eq_afterCommand _ s), runCommands_steps_regs, State.afterCommand_regs,
    Regs.advance_iterate_of_lt k hstarted]
  exact ⟨by bv_omega, Regs.after_setTarget_duration s.cfg s.regs w⟩

/-- Settles O40, by induction on the blocks: each leaves DURATION, so that the next finds the bound on its samples again, and
the last leaves its transition running. -/
theorem frequentTargetsStarveSettling : Obligations.FrequentTargetsStarveSettling := by
  intro s blocks hd hne hfew
  induction blocks generalizing s with
  | nil => exact absurd rfl hne
  | cons b rest ih =>
    obtain ⟨hb, hrest⟩ := List.forall_mem_cons.1 hfew
    obtain ⟨hrunning, hduration⟩ := runCommands_setTarget_steps_running b.1 hb
    rw [List.flatMap_cons, runCommands_append]
    by_cases hlast : rest = []
    · rw [hlast]
      exact hrunning
    · exact ih _ (by rwa [hduration]) hlast (by rwa [hduration])

end Sys2Proof.Machine
end

section
/-! SUPPORT. The reset line: its assertion, its release, and what reaches the ports in between
(spec/70_reset_and_hazards.md R90, R92). -/

namespace Sys2Proof.Machine

variable {s : State} {rest : List Input}

theorem step_resetAssert (hl : s.cfg.legal = true) (hi : s.inputs = .resetAssert :: rest) :
    step s = .next (State.assertReset { s with inputs := rest }) := step_cons s _ rest hl hi

theorem step_resetRelease (hl : s.cfg.legal = true) (hi : s.inputs = .resetRelease :: rest) :
    step s = .next (State.releaseReset { s with inputs := rest }) := step_cons s _ rest hl hi

/-- Settles O18: the assertion writes the reset values, raises the line and empties the response. -/
theorem resetWritesEveryRegister : Obligations.ResetWritesEveryRegister := fun _ _ hl hi =>
  ⟨_, step_resetAssert hl hi, rfl, rfl, rfl, rfl, rfl, rfl, rfl, rfl, rfl, rfl⟩

/-- Settles O19: the state after reset takes the default configuration, which is legal as O25 says. -/
theorem resetStateHoldsDefaults : Obligations.ResetStateHoldsDefaults :=
  ⟨rfl, rfl, rfl, resetStateIsGood.1.legal⟩

theorem acceptCommand_of_asserted (hr : s.resetLine = true) (c : Command) :
    acceptCommand c s = .next s.ignoreCommand := by
  simp [acceptCommand, hr]

theorem step_command_of_asserted (hl : s.cfg.legal = true) (hr : s.resetLine = true) {c : Command}
    (hi : s.inputs = .command c :: rest) : step s = .next { s with inputs := rest, response := none } := by
  rw [step_cons s _ rest hl hi]
  exact acceptCommand_of_asserted (s := { s with inputs := rest }) hr c

/-- Of two commands together one is ignored at once, whichever the tie lets go first; the other becomes the next input. -/
theorem step_together_of_asserted (hl : s.cfg.legal = true) (hr : s.resetLine = true) {wc ws : CommandWord}
    (hi : s.inputs = .together wc ws :: rest) :
    ∃ c, step s = .next { s with ties := s.ties + 1, inputs := .command c :: rest, response := none } := by
  have hstep : step s = acceptTogether wc ws { s with inputs := rest } := step_cons s _ rest hl hi
  rcases acceptTogether_cases wc ws { s with inputs := rest } with hfirst | hfirst
  · refine ⟨_, hstep.trans (hfirst.trans (acceptCommand_of_asserted ?_ _))⟩
    exact hr
  · refine ⟨_, hstep.trans (hfirst.trans (acceptCommand_of_asserted ?_ _))⟩
    exact hr

/-- Settles O20: while the line is raised every command is ignored, the second of a tie at a step of its own. -/
theorem resetLineBlocksCommands : Obligations.ResetLineBlocksCommands := by
  intro s rest hl hr
  refine ⟨fun c => step_command_of_asserted hl hr, fun wc ws hi => ?_, step_resetRelease hl⟩
  obtain ⟨c, hfirst⟩ := step_together_of_asserted hl hr hi
  exact ⟨_, _, hfirst, step_command_of_asserted hl hr rfl, rfl, rfl, hr, rfl, rfl, hr, rfl, rfl⟩

end Sys2Proof.Machine
end
